-- ==== Sys2Proof/Word.lean ====
section
/-! DEFINITION. The byte (00_scope R6) and the three marks of the token grammar (30_encoding R65). -/

namespace Sys2Proof

/-- A byte: an 8-bit value (00_scope R6, 20_memory R45). -/
abbrev Byte := BitVec 8

/-- The opening mark of a token, the byte 0x3C (00_scope R6). -/
def markOpen : Byte := 0x3C#8

/-- The separator of a token, the byte 0x2C. -/
def markSep : Byte := 0x2C#8

/-- The closing mark of a token, the byte 0x3E. -/
def markClose : Byte := 0x3E#8

end Sys2Proof
end

