-- ==== Sys2Proof/Config.lean ====
section
/-! DEFINITION. The build parameters of 00_scope R5: what is fixed when the hardware is built. The OPEN ones are
opaque constants, so no proof can see their values (log entries 1 and 2). -/

namespace Sys2Proof

/-- The build parameters of 00_scope R5. `OUT_CAP = none` is the spec's `infinite`. -/
structure Config where
  /-- `IDX_W`: the width in bits of each immediate of a command word, of `N` and of the position counters. -/
  idxW   : Nat
  /-- `W_MAX`: the largest window ENC_START accepts. -/
  wMax   : Nat
  /-- `SB_CAP`: physical capacity of the search buffer. -/
  sbCap  : Nat
  /-- `CC_CAP`: physical capacity of the candidate run. -/
  ccCap  : Nat
  /-- `OUT_CAP`: capacity of the decoder's output history; `none` is `infinite`. -/
  outCap : Option Nat
  /-- `NUM_SAT`: where a hardware may saturate a numeric field (42_decoder R146: no result depends on it). -/
  numSat : Nat
deriving DecidableEq, Repr

/-- The constraints 00_scope R5 puts on the parameters; and a field `B` of at least eight bits, as `B[7:0]` of 30_encoding
R61 needs (log entry 1). -/
abbrev Config.Legal (c : Config) : Prop :=
  8 ≤ c.idxW ∧ 1 ≤ c.wMax ∧ 2 * c.wMax + 1 ≤ c.sbCap ∧ c.wMax ≤ c.ccCap ∧ 1 ≤ c.ccCap ∧ c.outCap.getD 0 ≤ c.numSat

/-- OPEN parameter: `IDX_W - 8` (00_scope R5, decision D16; 30_encoding R61). -/
opaque Config.openIdxWLess8 : Nat

/-- OPEN parameter: `W_MAX - 1` (00_scope R5, decision D16). -/
opaque Config.openWMaxLess1 : Nat

/-- OPEN parameter: by how much `SB_CAP` exceeds its least legal value. -/
opaque Config.openSbSlack : Nat

/-- OPEN parameter: by how much `CC_CAP` exceeds its least legal value. -/
opaque Config.openCcSlack : Nat

/-- OPEN parameter: `OUT_CAP`, a natural number or `infinite`. -/
opaque Config.openOutCap : Option Nat

/-- OPEN parameter: by how much `NUM_SAT` exceeds its least legal value. -/
opaque Config.openSatSlack : Nat

/-- The parameters the hardware was built with: legal by construction, otherwise unknown. -/
def Config.build : Config where
  idxW   := Config.openIdxWLess8 + 8
  wMax   := Config.openWMaxLess1 + 1
  sbCap  := 2 * (Config.openWMaxLess1 + 1) + 1 + Config.openSbSlack
  ccCap  := Config.openWMaxLess1 + 1 + Config.openCcSlack
  outCap := Config.openOutCap
  numSat := Config.openOutCap.getD 0 + Config.openSatSlack

/-- The `IDX_W` at which `spec/opcode_table.json` is read, the value R5 suggests: only what puts a row of the table before
the machine uses it (log entry 7). -/
abbrev Config.tableIdxW : Nat := 32

/-- `W_DEFAULT` (00_scope R5): the default window and the reset value of E.W. -/
def Config.wDefault : Nat := 4096

end Sys2Proof
end

