-- ==== Sys2Proof/Machine/Operands.lean ====
section
/-! DEFINITION. The operand forms of the compressed stream: numbers as decimal text (30_encoding R70, R71), the text of a
token and its length (R69, R72). All integers are naturals without a bound (R71, R78). -/

namespace Sys2Proof.Machine

/-- A byte in 0x30..0x39 (00_scope R6). -/
def isDigit (b : Byte) : Bool := decide (0x30 ≤ b.toNat) && decide (b.toNat ≤ 0x39)

/-- The value of a digit byte (30_encoding R71). -/
def digitVal (b : Byte) : Nat := b.toNat - 0x30

/-- The byte of a digit `0..9` (30_encoding R70). -/
def digitByte (n : Nat) : Byte := BitVec.ofNat 8 (0x30 + n)

/-- `dec` of 30_encoding R70 with an explicit bound on the number of divisions, so that it computes by structural
recursion; `fuel = n` is always enough. -/
def decFuel : Nat → Nat → List Byte
  | 0, n => [digitByte (n % 10)]
  | fuel + 1, n => if n ≤ 9 then [digitByte n] else decFuel fuel (n / 10) ++ [digitByte (n % 10)]

/-- `dec(n)`: the shortest decimal spelling of `n` (30_encoding R70). -/
def dec (n : Nat) : List Byte := decFuel n n

/-- `isnum(s)`: at least one byte, all of them digits (30_encoding R71). -/
def isnum (s : List Byte) : Bool := !s.isEmpty && s.all isDigit

/-- `val(s)`: the integer the digits spell, most significant first (30_encoding R71). -/
def val (s : List Byte) : Nat := s.foldl (fun v d => 10 * v + digitVal d) 0

/-- The compact form of a digit buffer (42_decoder R149): what a hardware may hold in place of the bytes. The machine's
state holds the bytes; this form is here to be compared with them. -/
structure DigitSummary where
  nonempty : Bool
  bad      : Bool
  value    : Nat
deriving DecidableEq, Repr

/-- The summary of the empty buffer (42_decoder R149). -/
def DigitSummary.clear : DigitSummary := { nonempty := false, bad := false, value := 0 }

/-- D.TOK_CHAR on the summary, saturating at `sat` (42_decoder R149). -/
def DigitSummary.char (sat : Nat) (f : DigitSummary) (b : Byte) : DigitSummary :=
  if isDigit b then { f with nonempty := true, value := min (10 * f.value + digitVal b) sat }
  else { f with nonempty := true, bad := true }

/-- The summary of a buffer's bytes, taken in order. -/
def DigitSummary.ofBytes (sat : Nat) (s : List Byte) : DigitSummary := s.foldl (DigitSummary.char sat) DigitSummary.clear

/-- `toklen(O, L)`: the length of the token's text (30_encoding R72). -/
def toklen (o l : Nat) : Nat := 3 + (dec o).length + (dec l).length

/-- The bytes of the token the encoder emits for `O` and `L` (30_encoding R69). -/
def tokenText (o l : Nat) : List Byte := [markOpen] ++ dec o ++ [markSep] ++ dec l ++ [markClose]

end Sys2Proof.Machine
end

