-- ==== Sys2Proof/Syntax.lean ====
section
/-! DEFINITION. The instructions: one constructor per row of spec/opcode_table.json (four commands, four reserved
codes, five stream byte classes, the assembled token, ten micro-operations), and the two small vocabularies their
encoding needs: the units (00_scope R1) and the decoder's parser states (10_state R24). -/

namespace Sys2Proof

/-- The three units of the CORE (00_scope R1). -/
inductive UnitId where
  | E
  | D
  | M
deriving DecidableEq, Repr

/-- The parser state `D.STATE` (10_state R24). It is part of the syntax because a stream byte is classed by its value
AND by this state (30_encoding R66). -/
inductive ParserState where
  /-- OUTSIDE_TOKEN. -/
  | outside
  /-- INSIDE_TOKEN_SCANNING_OFFSET. -/
  | offset
  /-- INSIDE_TOKEN_SCANNING_LENGTH. -/
  | length
deriving DecidableEq, Repr

/-- The instructions, in the order of spec/opcode_table.json. -/
inductive Instr where
  /-- ENC_START `W` `N` (41_encoder R101). -/
  | encStart (w n : Nat)
  /-- ENC_PUSH `b` (41_encoder R102). -/
  | encPush (b : Byte)
  /-- DEC_START `N` (42_decoder R131). -/
  | decStart (n : Nat)
  /-- DEC_PUSH `b` (42_decoder R132). -/
  | decPush (b : Byte)
  /-- Reserved operation code 000, unit E (30_encoding R63). -/
  | reserved000
  /-- Reserved operation code 011, unit E. -/
  | reserved011
  /-- Reserved operation code 100, unit D. -/
  | reserved100
  /-- Reserved operation code 111, unit D. -/
  | reserved111
  /-- TOK_OPEN: the stream byte 0x3C (42_decoder R133). -/
  | tokOpen
  /-- TOK_SEP: the stream byte 0x2C inside a token (42_decoder R134). -/
  | tokSep
  /-- TOK_CLOSE: the stream byte 0x3E inside a token (42_decoder R135). -/
  | tokClose
  /-- TOK_CHAR: any other stream byte inside a token (42_decoder R137). -/
  | tokChar (b : Byte)
  /-- LIT: a stream byte outside a token (42_decoder R138). -/
  | lit (b : Byte)
  /-- COPY `O,L`: the assembled token (30_encoding R65). -/
  | copy (o l : Nat)
  /-- M.LOCATE (40_matcher R90). -/
  | mLocate (needle hay : List Byte)
  /-- E.EXT_TEST with the byte that would extend the run (41_encoder R103). -/
  | eExtTest (b : Byte)
  /-- E.ABSORB (41_encoder R106). -/
  | eAbsorb (b : Byte)
  /-- E.FLUSH_RUN (41_encoder R107). -/
  | eFlushRun
  /-- E.FLUSH_SHORT (41_encoder R110). -/
  | eFlushShort
  /-- E.APPEND (41_encoder R111). -/
  | eAppend (b : Byte)
  /-- E.EVICT (41_encoder R112). -/
  | eEvict
  /-- E.DRAIN (41_encoder R114). -/
  | eDrain
  /-- D.COPY `O L` (42_decoder R136). -/
  | dCopy (o l : Nat)
  /-- D.END_OF_INPUT (42_decoder R139). -/
  | dEndOfInput
deriving DecidableEq, Repr

/-- The unit of each row, the "unit" column of the opcode table. -/
def Instr.unit : Instr → UnitId
  | .encStart _ _ => .E
  | .encPush _ => .E
  | .decStart _ => .D
  | .decPush _ => .D
  | .reserved000 => .E
  | .reserved011 => .E
  | .reserved100 => .D
  | .reserved111 => .D
  | .tokOpen => .D
  | .tokSep => .D
  | .tokClose => .D
  | .tokChar _ => .D
  | .lit _ => .D
  | .copy _ _ => .D
  | .mLocate _ _ => .M
  | .eExtTest _ => .E
  | .eAbsorb _ => .E
  | .eFlushRun => .E
  | .eFlushShort => .E
  | .eAppend _ => .E
  | .eEvict => .E
  | .eDrain => .E
  | .dCopy _ _ => .D
  | .dEndOfInput => .D

/-- Whether a row is of format CMD: what the host can put on a command channel (30_encoding R60 to R63). -/
def Instr.isCommand : Instr → Bool
  | .encStart _ _ => true
  | .encPush _ => true
  | .decStart _ => true
  | .decPush _ => true
  | .reserved000 => true
  | .reserved011 => true
  | .reserved100 => true
  | .reserved111 => true
  | .tokOpen => false
  | .tokSep => false
  | .tokClose => false
  | .tokChar _ => false
  | .lit _ => false
  | .copy _ _ => false
  | .mLocate _ _ => false
  | .eExtTest _ => false
  | .eAbsorb _ => false
  | .eFlushRun => false
  | .eFlushShort => false
  | .eAppend _ => false
  | .eEvict => false
  | .eDrain => false
  | .dCopy _ _ => false
  | .dEndOfInput => false

end Sys2Proof
end

