-- ==== Sys2Proof/WellFormed.lean ====
section
/-! DEFINITION. Which operands an instruction may carry: immediates within their field (30_encoding R60, R62), a stream
byte within its class (30_encoding R66), a needle of at least one byte (40_matcher R90). -/

namespace Sys2Proof

/-- `i.wellFormed k`: the operands of `i` are ones the spec gives it when `IDX_W = k`. -/
def Instr.wellFormed (k : Nat) : Instr → Bool
  | .encStart w n => decide (w < 2 ^ k) && decide (n < 2 ^ k)
  | .encPush b => decide (b.toNat < 2 ^ k)
  | .decStart n => decide (n < 2 ^ k)
  | .decPush b => decide (b.toNat < 2 ^ k)
  | .reserved000 => true
  | .reserved011 => true
  | .reserved100 => true
  | .reserved111 => true
  | .tokOpen => true
  | .tokSep => true
  | .tokClose => true
  | .tokChar b => b != markOpen && b != markSep && b != markClose
  | .lit b => b != markOpen
  | .copy _ _ => true
  | .mLocate needle _ => !needle.isEmpty
  | .eExtTest _ => true
  | .eAbsorb _ => true
  | .eFlushRun => true
  | .eFlushShort => true
  | .eAppend _ => true
  | .eEvict => true
  | .eDrain => true
  | .dCopy _ _ => true
  | .dEndOfInput => true

end Sys2Proof
end

