-- ==== Sys2Proof/Decode.lean ====
section
/-! DEFINITION. The decoders of the two encoded things of 30_encoding, host command words (R60 to R63) and the compressed
stream (R65 to R68), and after them the encoders, written from the same tables. -/

namespace Sys2Proof

/-- The field `op` of a command word when `IDX_W = k` (30_encoding R60). -/
def cmdOp (k : Nat) (w : BitVec (2 * k + 3)) : BitVec 3 := w.extractLsb' (2 * k) 3

/-- The field `A`, unsigned (30_encoding R60, R62). -/
def cmdA (k : Nat) (w : BitVec (2 * k + 3)) : Nat := (w.extractLsb' k k).toNat

/-- The field `B`, unsigned. -/
def cmdB (k : Nat) (w : BitVec (2 * k + 3)) : Nat := (w.extractLsb' 0 k).toNat

/-- The byte `B[7:0]` of a PUSH (30_encoding R61, R62). -/
def cmdByte (k : Nat) (w : BitVec (2 * k + 3)) : Byte := BitVec.ofNat 8 (cmdB k w)

/-- The command a word stands for when `IDX_W = k` (30_encoding R61, R63), by the three bits of `op`, `op[2]` first.
Every word is some command or some reserved code, so nothing is rejected; ignored bits are dropped. -/
def decodeCmd (k : Nat) (w : BitVec (2 * k + 3)) : Instr :=
  match (cmdOp k w).getLsbD 2, (cmdOp k w).getLsbD 1, (cmdOp k w).getLsbD 0 with
  | false, false, false => .reserved000
  | false, false, true  => .encStart (cmdA k w) (cmdB k w)
  | false, true,  false => .encPush (cmdByte k w)
  | false, true,  true  => .reserved011
  | true,  false, false => .reserved100
  | true,  false, true  => .decStart (cmdB k w)
  | true,  true,  false => .decPush (cmdByte k w)
  | true,  true,  true  => .reserved111

/-- The command whose word spells the number `w` when `IDX_W = k`: a command word has `2*k + 3` bits (30_encoding R60). -/
def decodeCmdNum (k w : Nat) : Instr := decodeCmd k (BitVec.ofNat (2 * k + 3) w)

/-- The class of a stream byte in a parser state (30_encoding R66). -/
def decodeStream (st : ParserState) (b : Byte) : Instr :=
  if b = markOpen then .tokOpen
  else if st = .outside then .lit b
  else if b = markSep then .tokSep
  else if b = markClose then .tokClose
  else .tokChar b

/-- Why a byte sequence does not begin with a stream instruction of the two forms of 30_encoding R65. -/
inductive StreamReject where
  /-- No byte at all. -/
  | noBytes
  /-- A token with no closing mark before the bytes end (30_encoding R74). -/
  | unclosed
  /-- The offset field is empty (30_encoding R73). -/
  | emptyOffset
  /-- The offset field ends in a byte that is no digit and no separator (30_encoding R73, R75). -/
  | badOffset
  /-- The length field is empty (30_encoding R73). -/
  | emptyLength
  /-- The length field ends in a byte that is no digit and no closing mark (30_encoding R73, R75, R76). -/
  | badLength
deriving DecidableEq, Repr

/-- What reading one stream instruction answers: it and the bytes after it, or the reason there is none. -/
inductive StreamRead where
  | read (i : Instr) (rest : List Byte)
  | reject (why : StreamReject)
deriving DecidableEq, Repr

/-- Reads one stream instruction, LIT or COPY, from the front of a byte sequence met in state OUTSIDE: the grammar of
30_encoding R65 and R67, `<` DIGIT+ `,` DIGIT+ `>` (leading zeros allowed, R71). -/
def decodeToken : List Byte → StreamRead
  | [] => .reject .noBytes
  | b :: rest =>
    if b ≠ markOpen then .read (.lit b) rest
    else
      match rest.dropWhile Machine.isDigit with
      | [] => .reject .unclosed
      | c :: rest' =>
        if c ≠ markSep then .reject .badOffset
        else
          match rest'.dropWhile Machine.isDigit with
          | [] => .reject .unclosed
          | d :: rest'' =>
            if d ≠ markClose then .reject .badLength
            else if (rest.takeWhile Machine.isDigit).isEmpty then .reject .emptyOffset
            else if (rest'.takeWhile Machine.isDigit).isEmpty then .reject .emptyLength
            else .read (.copy (Machine.val (rest.takeWhile Machine.isDigit)) (Machine.val (rest'.takeWhile Machine.isDigit))) rest''

/-- The low `n` bytes of a number, the least significant first. -/
def bytesOf : Nat → Nat → List Byte
  | 0, _ => []
  | n + 1, w => BitVec.ofNat 8 w :: bytesOf n (w / 256)

/-- The token that is ALL of the bytes `bs`, if they are one. -/
def wholeToken (bs : List Byte) : Option Instr :=
  match decodeToken bs with
  | .read (.copy o l) [] => some (.copy o l)
  | .read _ _ => none
  | .reject _ => none

/-- The instruction read from a row of spec/opcode_table.json whose bits are `w`: a stream byte (8 bits, classed as
inside a token, where four of the five classes stand), a token (its bytes, the first at the low end), or a command word
of `2*IDX_W + 3` bits at the table's `IDX_W`. -/
def decodeTableWord (nbits w : Nat) : Option Instr :=
  if nbits = 8 then
    if w < 2 ^ 8 then some (decodeStream .offset (BitVec.ofNat 8 w)) else none
  else
    match wholeToken (bytesOf (nbits / 8) w) with
    | some i => some i
    | none =>
      if 8 < nbits ∧ w < 2 ^ (2 * Config.tableIdxW + 3) then some (decodeCmdNum Config.tableIdxW w)
      else none

/-- A command word from its three fields when `IDX_W = k` (30_encoding R60). -/
def cmdWord (k op a b : Nat) : BitVec (2 * k + 3) := BitVec.ofNat (2 * k + 3) (op * 2 ^ (2 * k) + a * 2 ^ k + b)

/-- The word of a well-formed command when `IDX_W = k`, ignored fields 0 (30_encoding R61); no other row has one. -/
def encodeCmd (k : Nat) (i : Instr) : Option (BitVec (2 * k + 3)) :=
  if i.wellFormed k then
    match i with
    | .encStart w n => some (cmdWord k 1 w n)
    | .encPush b => some (cmdWord k 2 0 b.toNat)
    | .decStart n => some (cmdWord k 5 0 n)
    | .decPush b => some (cmdWord k 6 0 b.toNat)
    | .reserved000 => some (cmdWord k 0 0 0)
    | .reserved011 => some (cmdWord k 3 0 0)
    | .reserved100 => some (cmdWord k 4 0 0)
    | .reserved111 => some (cmdWord k 7 0 0)
    | .tokOpen => none
    | .tokSep => none
    | .tokClose => none
    | .tokChar _ => none
    | .lit _ => none
    | .copy _ _ => none
    | .mLocate _ _ => none
    | .eExtTest _ => none
    | .eAbsorb _ => none
    | .eFlushRun => none
    | .eFlushShort => none
    | .eAppend _ => none
    | .eEvict => none
    | .eDrain => none
    | .dCopy _ _ => none
    | .dEndOfInput => none
  else none

/-- The bytes of a well-formed stream instruction (30_encoding R65, R66, R69); no other row has them. -/
def encodeStream (i : Instr) : Option (List Byte) :=
  if i.wellFormed 0 then
    match i with
    | .tokOpen => some [markOpen]
    | .tokSep => some [markSep]
    | .tokClose => some [markClose]
    | .tokChar b => some [b]
    | .lit b => some [b]
    | .copy o l => some (Machine.tokenText o l)
    | .encStart _ _ => none
    | .encPush _ => none
    | .decStart _ => none
    | .decPush _ => none
    | .reserved000 => none
    | .reserved011 => none
    | .reserved100 => none
    | .reserved111 => none
    | .mLocate _ _ => none
    | .eExtTest _ => none
    | .eAbsorb _ => none
    | .eFlushRun => none
    | .eFlushShort => none
    | .eAppend _ => none
    | .eEvict => none
    | .eDrain => none
    | .dCopy _ _ => none
    | .dEndOfInput => none
  else none

/-- The bytes of an instruction list (30_encoding R79); an instruction with no bytes makes the list have none. -/
def assemble : List Instr → Option (List Byte)
  | [] => some []
  | i :: is =>
    match encodeStream i, assemble is with
    | some b, some bs => some (b ++ bs)
    | some _, none => none
    | none, some _ => none
    | none, none => none

end Sys2Proof
end

