-- ==== Sys2Proof/Machine/State.lean ====
section
/-! DEFINITION. The architectural state of 10_state R10 as plain data, its reset values (R33), and the reasons a step of
the MODEL can stop. The faults of the spec are not among these reasons: taking one is a next state (60_exceptions R166). -/

namespace Sys2Proof.Machine

/-- The four values of a STATUS register (10_state R11, R20). -/
inductive Status where
  | idle
  | busy
  | done
  | fault
deriving DecidableEq, Repr

/-- The five values of a FAULT register (60_exceptions R160). -/
inductive FaultCode where
  | fNone
  | fInvalidArg
  | fParse
  | fCapacity
  | fProtocol
deriving DecidableEq, Repr

/-- What a unit answers the host with: its STATUS and FAULT registers and the output channel DOUT of the current
command (10_state R35). After a command to the unit, this record IS the response. -/
structure Port where
  /-- `U.STATUS` (10_state R11, R20). -/
  status : Status
  /-- `U.FAULT` (10_state R12, R21). -/
  fault  : FaultCode
  /-- `U.DOUT` (10_state R19, R28): the bytes emitted by the current or last command, in order. -/
  dout   : List Byte
deriving DecidableEq, Repr

/-- The state of unit E (10_state R11 to R19). -/
structure Enc where
  /-- `E.STATUS`, `E.FAULT`, `E.DOUT`. -/
  port     : Port
  /-- `E.W`, the window of the frame (10_state R13). -/
  w        : Nat
  /-- `E.N`, the length of the frame (10_state R14). -/
  n        : Nat
  /-- `E.i`, the index of the next input byte (10_state R15). -/
  i        : Nat
  /-- `E.SB`, the search buffer, oldest byte first (10_state R16). -/
  sb       : List Byte
  /-- `E.CC`, the candidate run (10_state R17). -/
  cc       : List Byte
  /-- `found` (10_state R18), live only inside one ENC_PUSH. -/
  found    : Bool
  /-- `last` (10_state R18), live only inside one ENC_PUSH. -/
  last     : Bool
  /-- `absorbed` (10_state R18), live only inside one ENC_PUSH. -/
  absorbed : Bool
  /-- `fits` (10_state R18), live only inside one ENC_PUSH. -/
  fits     : Bool
deriving DecidableEq, Repr

/-- The state of unit D (10_state R20 to R28). -/
structure Dec where
  /-- `D.STATUS`, `D.FAULT`, `D.DOUT`. -/
  port  : Port
  /-- `D.N`, the length of the frame (10_state R22). -/
  n     : Nat
  /-- `D.i`, the index of the next input byte (10_state R23). -/
  i     : Nat
  /-- `D.STATE`, the parser state (10_state R24). -/
  state : ParserState
  /-- `D.OB`, the offset-digit buffer (10_state R25). -/
  ob    : List Byte
  /-- `D.LB`, the length-digit buffer (10_state R26). -/
  lb    : List Byte
  /-- `D.OUT`, the output history (10_state R27). -/
  out   : List Byte
deriving DecidableEq, Repr

/-- The result of one M.LOCATE (40_matcher R90): an index, or NF, which is no number. -/
inductive Locate where
  | found (r : Nat)
  | nf
deriving DecidableEq, Repr

/-- What the host can do to the CORE between two transitions: issue a command word (20_memory R40) or apply power-on
reset (70_reset_and_hazards R190). The word is the number its bits spell (30_encoding R60): its width is the build's. -/
inductive HostInput where
  | word (w : Nat)
  | powerOn
deriving DecidableEq, Repr

/-- The machine. `enc` and `dec` are the spec's state (10_state R10; unit M has none, R29). `cfg`, `loc` and `cmds` are
the model's own: the build parameters, never written (log entry 2), the value M.LOCATE hands back to the unit that
invoked it (log entry 6), and what the host issues, in order (log entry 7). -/
structure State where
  cfg  : Config
  enc  : Enc
  dec  : Dec
  loc  : Locate
  cmds : List HostInput
deriving DecidableEq, Repr

/-- Reasons for which the machine stops with a fault: there are none. The four faults of the spec are taken as next
states (60_exceptions R166), and no access of a command can go outside a buffer. Safe: nothing raises it. -/
inductive Fault where
deriving DecidableEq, Repr

/-- Reasons for which an instruction has no meaning. -/
inductive Refusal where
  /-- An arm of `exec` not yet given its meaning. Raised by no arm of this model. Safe. -/
  | notModelled (mnemonic : String)
  /-- M.LOCATE with an empty needle, outside the operation's domain (40_matcher R96). Raised by the row M.LOCATE only; no
  command ever asks it. Safe: the model stops where the spec gives no meaning. -/
  | emptyNeedle
deriving DecidableEq, Repr

/-- A port right after reset (10_state R33). -/
def Port.reset : Port := { status := .idle, fault := .fNone, dout := [] }

/-- Unit E right after reset (10_state R33). -/
def Enc.reset : Enc where
  port := Port.reset
  w := Config.wDefault
  n := 0
  i := 0
  sb := []
  cc := []
  found := false
  last := false
  absorbed := false
  fits := false

/-- Unit D right after reset (10_state R33). -/
def Dec.reset : Dec where
  port := Port.reset
  n := 0
  i := 0
  state := .outside
  ob := []
  lb := []
  out := []

/-- A machine built with the parameters `cfg`, right after reset, with nothing issued yet. -/
def State.resetWith (cfg : Config) : State where
  cfg := cfg
  enc := Enc.reset
  dec := Dec.reset
  loc := .nf
  cmds := []

/-- The machine right after reset (10_state R33, 70_reset_and_hazards R190). -/
def State.reset : State := State.resetWith Config.build

end Sys2Proof.Machine
end

