-- ==== Sys2Proof/Machine/Ops.lean ====
section
/-! DEFINITION. The named operations the meanings share: the state access primitives of 00_scope R7, the response codes of
30_encoding R64, fault entry (60_exceptions R166) and the bookkeeping of a command. There is no return from a fault: only
a START or reset leaves FAULT (60_exceptions R168). -/

namespace Sys2Proof.Machine

/-- The machine with unit E's state replaced: the one way a meaning writes it. -/
def State.setEnc (e : Enc) (s : State) : State := { s with enc := e }

/-- The machine with unit D's state replaced: the one way a meaning writes it. -/
def State.setDec (d : Dec) (s : State) : State := { s with dec := d }

/-- The machine with the matcher's answer replaced. -/
def State.setLoc (r : Locate) (s : State) : State := { s with loc := r }

/-- The machine with what the host issues replaced. -/
def State.setCmds (c : List HostInput) (s : State) : State := { s with cmds := c }

/-- The same unit with another port. -/
def Enc.setPort (p : Port) (e : Enc) : Enc := { e with port := p }

/-- The same unit with another port. -/
def Dec.setPort (p : Port) (d : Dec) : Dec := { d with port := p }

/-- `MemRead(buf, k, 1)` (00_scope R7): nothing when `k` is not below the length. -/
def memRead (buf : List Byte) (k : Nat) : Option Byte := buf[k]?

/-- `Append(buf, v)` (00_scope R7). -/
def append (buf : List Byte) (v : Byte) : List Byte := buf ++ [v]

/-- `AppendSeq(buf, s)` (00_scope R7). -/
def appendSeq (buf s : List Byte) : List Byte := buf ++ s

/-- `DropFront(buf)` (00_scope R7). -/
def dropFront (buf : List Byte) : List Byte := buf.drop 1

/-- `Emit(U, v)` (00_scope R7). -/
def Port.emit (v : Byte) (p : Port) : Port := { p with dout := p.dout ++ [v] }

/-- `EmitSeq(U, s)` (00_scope R7). -/
def Port.emitSeq (s : List Byte) (p : Port) : Port := { p with dout := p.dout ++ s }

/-- The beginning of a command's response: nothing emitted yet (00_scope R8). -/
def Port.clearOut (p : Port) : Port := { p with dout := [] }

/-- Fault entry, `raise F`, the one operation by which either unit takes a fault (60_exceptions R166): STATUS becomes
FAULT, FAULT becomes the code, and the response carries no byte. Nothing is saved and control goes nowhere. -/
def Port.raise (f : FaultCode) : Port := { status := .fault, fault := f, dout := [] }

/-- `raise F` in unit E. -/
def Enc.raise (f : FaultCode) (e : Enc) : Enc := e.setPort (Port.raise f)

/-- `raise F` in unit D. -/
def Dec.raise (f : FaultCode) (d : Dec) : Dec := d.setPort (Port.raise f)

/-- How a micro-operation of unit D ends: the command goes on, or a fault has ended it (60_exceptions R166). -/
inductive DecFlow where
  | go (d : Dec)
  | stop (d : Dec)
deriving DecidableEq, Repr

/-- The state of unit D at the end of a flow, however it ended. -/
def DecFlow.state : DecFlow → Dec
  | .go d => d
  | .stop d => d

/-- Goes on with `f` unless a fault has ended the command. -/
def DecFlow.andThen (m : DecFlow) (f : Dec → DecFlow) : DecFlow :=
  match m with
  | .go d => f d
  | .stop d => .stop d

/-- Whether a history of `len` bytes fits the capacity `OUT_CAP` (42_decoder R150). -/
def fitsCap (cap : Option Nat) (len : Nat) : Bool :=
  match cap with
  | none => true
  | some c => decide (len ≤ c)

/-- A unit's answer to a PUSH with no frame open, or to a reserved code: in FAULT the command is ignored, so only the
response's bytes are none (60_exceptions R168); in any other status F_PROTOCOL is raised (60_exceptions R164). -/
def Port.misuse (p : Port) : Port := if p.status = .fault then p.clearOut else Port.raise .fProtocol

/-- The 2-bit code of a status (30_encoding R64). -/
def Status.code : Status → BitVec 2
  | .idle => 0
  | .busy => 1
  | .done => 2
  | .fault => 3

/-- The 3-bit code of a fault (30_encoding R64). -/
def FaultCode.code : FaultCode → BitVec 3
  | .fNone => 0
  | .fInvalidArg => 1
  | .fParse => 2
  | .fCapacity => 3
  | .fProtocol => 4

/-- The response to a command of unit `u`, read off the state after it (10_state R35); unit M answers no command. -/
def State.response (u : UnitId) (s : State) : Option Port :=
  match u with
  | .E => some s.enc.port
  | .D => some s.dec.port
  | .M => none

/-- Power-on reset applied to a running machine (70_reset_and_hazards R190): every register of both units at its reset
value; the build parameters and what the host issues later are not state of the units. -/
def State.powerOn (s : State) : State := { State.resetWith s.cfg with cmds := s.cmds }

end Sys2Proof.Machine
end

