-- ==== Sys2Proof/Machine/Decoder.lean ====
section
/-! DEFINITION. Unit D: the actions of the five stream byte classes (42_decoder R133 to R138), the copy unit (R136), the
end of input (R139), the commands DEC_START (R131) and DEC_PUSH (R132), the assembled token (30_encoding R65), and the
meaning of each of these rows. -/

namespace Sys2Proof.Machine

/-! ### The actions on unit D -/

/-- `Append(D.OUT, v); Emit(D, v)` (42_decoder R136, R138). -/
def Dec.produce (v : Byte) (d : Dec) : Dec := { d with out := append d.out v, port := d.port.emit v }

/-- The loop of D.COPY (42_decoder R136): `cnt` bytes, one at a time, from index `s` of the history on. A read outside the
history, which R145 excludes, would produce nothing. -/
def Dec.copyLoop : Nat → Nat → Dec → Dec
  | _, 0, d => d
  | s, cnt + 1, d =>
    match memRead d.out s with
    | some v => Dec.copyLoop (s + 1) cnt (d.produce v)
    | none => Dec.copyLoop (s + 1) cnt d

/-- The size of the reference window, `a = min(O, n)` (42_decoder R136). -/
def Dec.window (o : Nat) (d : Dec) : Nat := min o d.out.length

/-- The number of bytes copied, `cnt = min(L, a)` (42_decoder R136). -/
def Dec.copyCount (o l : Nat) (d : Dec) : Nat := min l (d.window o)

/-- D.COPY(O, L) (42_decoder R136). -/
def Dec.copyUnit (cap : Option Nat) (o l : Nat) (d : Dec) : DecFlow :=
  if fitsCap cap (d.out.length + d.copyCount o l) then
    .go (Dec.copyLoop (d.out.length - d.window o) (d.copyCount o l) d)
  else .stop (d.raise .fCapacity)

/-- D.TOK_OPEN (42_decoder R133). -/
def Dec.tokOpen (d : Dec) : Dec := { d with state := .offset, ob := [], lb := [] }

/-- D.TOK_SEP (42_decoder R134). -/
def Dec.tokSep (d : Dec) : Dec := { d with state := .length }

/-- D.TOK_CLOSE (42_decoder R135). -/
def Dec.tokClose (cap : Option Nat) (d : Dec) : DecFlow :=
  if isnum d.ob && isnum d.lb then
    (d.copyUnit cap (val d.ob) (val d.lb)).andThen fun d' => .go { d' with ob := [], lb := [], state := .outside }
  else .stop (d.raise .fParse)

/-- D.TOK_CHAR (42_decoder R137); outside a token it stores nothing. -/
def Dec.tokChar (b : Byte) (d : Dec) : Dec :=
  match d.state with
  | .outside => d
  | .offset => { d with ob := append d.ob b }
  | .length => { d with lb := append d.lb b }

/-- D.LIT (42_decoder R138). -/
def Dec.lit (cap : Option Nat) (b : Byte) (d : Dec) : DecFlow :=
  if fitsCap cap (d.out.length + 1) then .go (d.produce b) else .stop (d.raise .fCapacity)

/-- The action of a stream byte, by the five branches of 42_decoder R132. -/
def Dec.action (cap : Option Nat) (b : Byte) (d : Dec) : DecFlow :=
  if b = markOpen then .go d.tokOpen
  else if d.state ≠ .outside ∧ b = markSep then .go d.tokSep
  else if d.state ≠ .outside ∧ b = markClose then d.tokClose cap
  else if d.state ≠ .outside then .go (d.tokChar b)
  else d.lit cap b

/-- The actions of a sequence of stream bytes, up to the first fault. -/
def Dec.actions (cap : Option Nat) : List Byte → Dec → DecFlow
  | [], d => .go d
  | b :: bs, d => (d.action cap b).andThen (Dec.actions cap bs)

/-- D.END_OF_INPUT (42_decoder R139): `D.STATE` is left as it is. -/
def Dec.endOfInput (d : Dec) : Dec := { d with ob := [], lb := [], port := { d.port with status := .done } }

/-- The end of a DEC_PUSH (42_decoder R132): the counter advances; after the frame's last byte D.END_OF_INPUT runs. -/
def Dec.advance (d : Dec) : Dec :=
  let d' := { d with i := d.i + 1 }
  if d'.i = d'.n then d'.endOfInput else d'

/-- DEC_PUSH in status BUSY: the byte's action, then the end of the command unless a fault has ended it (42_decoder R132). -/
def Dec.turn (cap : Option Nat) (b : Byte) (d : Dec) : Dec :=
  ((d.action cap b).andThen fun d' => .go d'.advance).state

/-- DEC_PUSH (42_decoder R132). -/
def Dec.push (cap : Option Nat) (b : Byte) (d : Dec) : Dec :=
  if d.port.status = .busy then Dec.turn cap b (d.setPort d.port.clearOut)
  else d.setPort d.port.misuse

/-- DEC_START (42_decoder R131). -/
def Dec.start (n : Nat) (_d : Dec) : Dec where
  port := { status := if n = 0 then .done else .busy, fault := .fNone, dout := [] }
  n := n
  i := 0
  state := .outside
  ob := []
  lb := []
  out := []

/-! ### The meanings of the rows -/

/-- DEC_START `N` (42_decoder R131). -/
def execDecStart (n : Nat) (s : State) : Host.Outcome State Fault Refusal := .next (s.setDec (s.dec.start n))

/-- DEC_PUSH `b` (42_decoder R132). -/
def execDecPush (b : Byte) (s : State) : Host.Outcome State Fault Refusal :=
  .next (s.setDec (s.dec.push s.cfg.outCap b))

/-- Reserved code 100, unit D (30_encoding R63, 60_exceptions R164, R168). -/
def execReserved100 (s : State) : Host.Outcome State Fault Refusal :=
  .next (s.setDec (s.dec.setPort s.dec.port.misuse))

/-- Reserved code 111, unit D (30_encoding R63, 60_exceptions R164, R168). -/
def execReserved111 (s : State) : Host.Outcome State Fault Refusal :=
  .next (s.setDec (s.dec.setPort s.dec.port.misuse))

/-- TOK_OPEN (42_decoder R133), in any parser state. -/
def execTokOpen (s : State) : Host.Outcome State Fault Refusal := .next (s.setDec s.dec.tokOpen)

/-- TOK_SEP (42_decoder R134). Outside a token the byte 0x2C is not this action but a literal (R134, R138, log entry 9). -/
def execTokSep (s : State) : Host.Outcome State Fault Refusal :=
  if s.dec.state = .outside then .next (s.setDec (s.dec.lit s.cfg.outCap markSep).state)
  else .next (s.setDec s.dec.tokSep)

/-- TOK_CLOSE (42_decoder R135). Outside a token the byte 0x3E is not this action but a literal (R135, R138, log entry 9). -/
def execTokClose (s : State) : Host.Outcome State Fault Refusal :=
  if s.dec.state = .outside then .next (s.setDec (s.dec.lit s.cfg.outCap markClose).state)
  else .next (s.setDec (s.dec.tokClose s.cfg.outCap).state)

/-- TOK_CHAR (42_decoder R137). Outside a token, or with one of the three marks, the byte is of another class and that
class's action runs (30_encoding R66, log entry 9). -/
def execTokChar (b : Byte) (s : State) : Host.Outcome State Fault Refusal :=
  if s.dec.state ≠ .outside ∧ b ≠ markOpen ∧ b ≠ markSep ∧ b ≠ markClose then .next (s.setDec (s.dec.tokChar b))
  else .next (s.setDec (s.dec.action s.cfg.outCap b).state)

/-- LIT (42_decoder R138). Inside a token, or with the byte 0x3C, the byte is of another class and that class's action
runs (30_encoding R66, log entry 9). -/
def execLit (b : Byte) (s : State) : Host.Outcome State Fault Refusal :=
  if s.dec.state = .outside ∧ b ≠ markOpen then .next (s.setDec (s.dec.lit s.cfg.outCap b).state)
  else .next (s.setDec (s.dec.action s.cfg.outCap b).state)

/-- COPY `O,L`, the assembled token: the actions of its bytes TOK_OPEN, TOK_CHAR.., TOK_SEP, TOK_CHAR.., TOK_CLOSE in order
(30_encoding R65, the note of the table's row COPY). The counter `D.i` belongs to DEC_PUSH (log entry 10). -/
def execCopy (o l : Nat) (s : State) : Host.Outcome State Fault Refusal :=
  .next (s.setDec (s.dec.actions s.cfg.outCap (tokenText o l)).state)

/-- D.COPY(O, L) (42_decoder R136). -/
def execDCopy (o l : Nat) (s : State) : Host.Outcome State Fault Refusal :=
  .next (s.setDec (s.dec.copyUnit s.cfg.outCap o l).state)

/-- D.END_OF_INPUT (42_decoder R139). The rule gives it only inside a DEC_PUSH in status BUSY; that the row, run alone, ends
the frame from every status, FAULT among them, with the code kept, is the model's choice (log entry 17). -/
def execDEndOfInput (s : State) : Host.Outcome State Fault Refusal := .next (s.setDec s.dec.endOfInput)

end Sys2Proof.Machine
end

