-- ==== Sys2Proof/Machine/Matcher.lean ====
section
/-! DEFINITION. Unit M and its one operation M.LOCATE (40_matcher R90, R91), in the reading of decisions D6 (the
mismatching byte is consumed) and D7 (a match that ends on the last byte is found). -/

namespace Sys2Proof.Machine

/-- The scan of 40_matcher R91 from haystack index `j` on: the needle cursor is `c`, the list is `hay[j], hay[j+1], ...`. -/
def scan (needle : List Byte) : List Byte → Nat → Nat → Locate
  | [], _, _ => .nf
  | v :: hay, j, c =>
    if memRead needle c = some v then
      if c + 1 = needle.length then .found (j + 1 - needle.length)
      else scan needle hay (j + 1) (c + 1)
    else scan needle hay (j + 1) 0

/-- `M.LOCATE(needle, hay)` (40_matcher R91). For the empty needle see `execMLocate` (R96). -/
def locate (needle hay : List Byte) : Locate := scan needle hay 0 0

/-- Whether a result is not NF. -/
def Locate.isFound : Locate → Bool
  | .found _ => true
  | .nf => false

/-- The row M.LOCATE: it reads its operands, writes nothing of the machine's state (40_matcher R90) and hands its result
back in `loc`; with an empty needle it has no meaning (R96). -/
def execMLocate (needle hay : List Byte) (s : State) : Host.Outcome State Fault Refusal :=
  if needle = [] then .refused .emptyNeedle
  else .next (s.setLoc (locate needle hay))

end Sys2Proof.Machine
end

