-- ==== Sys2Proof/Machine/Flags.lean ====
section
/-! DEFINITION. The four condition bits of the encoder (10_state R18), each computed by the rule that sets it, and the
two conditions read from them. There are no other flags in the CORE. -/

namespace Sys2Proof.Machine

/-- `found` (41_encoder R103): M.LOCATE finds `E.CC ++ [b]` in `E.SB`. -/
def foundBit (b : Byte) (e : Enc) : Bool := (locate (append e.cc b) e.sb).isFound

/-- `last` (41_encoder R105): `E.i = E.N - 1`, written without the subtraction. -/
def lastBit (e : Enc) : Bool := decide (e.i + 1 = e.n)

/-- `fits` (41_encoder R109): `not (toklen(O, L) > L)`. -/
def fitsBit (o l : Nat) : Bool := !decide (toklen o l > l)

/-- The flush condition (41_encoder R104): `(not found) or last`. -/
def Enc.flushTriggered (e : Enc) : Bool := !e.found || e.last

/-- The absorb condition (41_encoder R106): `last and found`. -/
def Enc.absorbTriggered (e : Enc) : Bool := e.last && e.found

/-- The condition bits are dead when ENC_PUSH ends (10_state R18): the model puts them at false (log entry 5). -/
def Enc.killBits (e : Enc) : Enc := { e with found := false, last := false, absorbed := false, fits := false }

end Sys2Proof.Machine
end

