-- ==== Sys2Proof/Machine/Encoder.lean ====
section
/-! DEFINITION. Unit E: the micro-operations of ENC_PUSH (41_encoder R103 to R114), the commands ENC_START (R101) and
ENC_PUSH (R102), and the meaning of each of these rows. -/

namespace Sys2Proof.Machine

/-! ### The micro-operations on unit E -/

/-- E.EXT_TEST (41_encoder R103): writes `found` only. -/
def Enc.extTest (b : Byte) (e : Enc) : Enc := { e with found := foundBit b e }

/-- The two lines of ENC_PUSH after the test: `last` by 41_encoder R105, and `absorbed <- false`. -/
def Enc.setLast (e : Enc) : Enc := { e with last := lastBit e, absorbed := false }

/-- E.ABSORB (41_encoder R106). -/
def Enc.absorb (b : Byte) (e : Enc) : Enc := { e with cc := append e.cc b, absorbed := true }

/-- The end of either flush: the run goes to the end of the search buffer and a new run starts empty (41_encoder R107, R110). -/
def Enc.retireRun (e : Enc) : Enc := { e with sb := appendSeq e.sb e.cc, cc := [] }

/-- `EmitSeq(E, E.CC)`: the run as literals (41_encoder R107, R110, R114). -/
def Enc.emitRun (e : Enc) : Enc := { e with port := e.port.emitSeq e.cc }

/-- The choice of 41_encoder R109 for a run located `O` bytes back: the token when it fits, else the run itself. -/
def Enc.emitTokenOrRun (o : Nat) (e : Enc) : Enc :=
  if fitsBit o e.cc.length then { e with fits := true, port := e.port.emitSeq (tokenText o e.cc.length) }
  else Enc.emitRun { e with fits := false }

/-- E.FLUSH_RUN (41_encoder R107): the offset is `|E.SB| - r` (R108); a run that cannot be located goes out as literals (R125). -/
def Enc.flushRun (e : Enc) : Enc :=
  match locate e.cc e.sb with
  | .nf => e.emitRun.retireRun
  | .found r => (e.emitTokenOrRun (e.sb.length - r)).retireRun

/-- E.FLUSH_SHORT (41_encoder R110). -/
def Enc.flushShort (e : Enc) : Enc := e.emitRun.retireRun

/-- E.APPEND when the byte was not absorbed (41_encoder R111). -/
def Enc.appendByte (b : Byte) (e : Enc) : Enc := { e with cc := append e.cc b }

/-- E.EVICT (41_encoder R112): one byte, and only above `E.W`. -/
def Enc.evict (e : Enc) : Enc := if e.sb.length > e.w then { e with sb := dropFront e.sb } else e

/-- E.DRAIN (41_encoder R114). -/
def Enc.drain (e : Enc) : Enc := { e.emitRun with cc := [] }

/-! ### ENC_PUSH as the sequence of its lines (41_encoder R102) -/

/-- The lines under the flush condition (41_encoder R104): absorb if due, then the flush for the run's length. -/
def Enc.flushStep (b : Byte) (e : Enc) : Enc :=
  if e.flushTriggered then
    let e' := if e.absorbTriggered then e.absorb b else e
    if e'.cc.length > 1 then e'.flushRun else e'.flushShort
  else e

/-- `if not absorbed: E.APPEND(b)`. -/
def Enc.appendStep (b : Byte) (e : Enc) : Enc := if e.absorbed then e else e.appendByte b

/-- Unit E inside an ENC_PUSH in status BUSY, just before E.EVICT. -/
def Enc.beforeEvict (b : Byte) (e : Enc) : Enc := (((e.extTest b).setLast).flushStep b).appendStep b

/-- The end of an ENC_PUSH (41_encoder R113): the counter advances; at the frame's end E.DRAIN runs and the status is DONE. -/
def Enc.advance (e : Enc) : Enc :=
  let e' := { e with i := e.i + 1 }
  if e'.i = e'.n then
    let e'' := e'.drain
    { e'' with port := { e''.port with status := .done } }
  else e'

/-- ENC_PUSH in status BUSY: one turn of the encoder's loop (41_encoder R102). -/
def Enc.turn (b : Byte) (e : Enc) : Enc := ((e.beforeEvict b).evict.advance).killBits

/-- ENC_PUSH (41_encoder R102). -/
def Enc.push (b : Byte) (e : Enc) : Enc :=
  if e.port.status = .busy then Enc.turn b (e.setPort e.port.clearOut)
  else e.setPort e.port.misuse

/-- ENC_START (41_encoder R101). A refused window leaves `E.W` and `E.N` as they were (60_exceptions R167). -/
def Enc.start (cfg : Config) (w n : Nat) (e : Enc) : Enc :=
  let e' := { e.killBits with port := { e.port with fault := .fNone, dout := [] }, sb := [], cc := [], i := 0 }
  if w = 0 ∨ w > cfg.wMax then e'.raise .fInvalidArg
  else { e' with w := w, n := n, port := { e'.port with status := if n = 0 then .done else .busy } }

/-! ### The meanings of the rows -/

/-- ENC_START `W` `N` (41_encoder R101). -/
def execEncStart (w n : Nat) (s : State) : Host.Outcome State Fault Refusal := .next (s.setEnc (s.enc.start s.cfg w n))

/-- ENC_PUSH `b` (41_encoder R102). -/
def execEncPush (b : Byte) (s : State) : Host.Outcome State Fault Refusal := .next (s.setEnc (s.enc.push b))

/-- E.EXT_TEST (41_encoder R103). -/
def execEExtTest (b : Byte) (s : State) : Host.Outcome State Fault Refusal := .next (s.setEnc (s.enc.extTest b))

/-- E.ABSORB (41_encoder R106); where its condition does not hold, ENC_PUSH passes over it (R102, log entry 8). -/
def execEAbsorb (b : Byte) (s : State) : Host.Outcome State Fault Refusal :=
  .next (if s.enc.absorbTriggered then s.setEnc (s.enc.absorb b) else s)

/-- E.FLUSH_RUN (41_encoder R107); where its condition does not hold, ENC_PUSH passes over it (R102, log entry 8). -/
def execEFlushRun (s : State) : Host.Outcome State Fault Refusal :=
  .next (if s.enc.flushTriggered ∧ s.enc.cc.length > 1 then s.setEnc s.enc.flushRun else s)

/-- E.FLUSH_SHORT (41_encoder R110); where its condition does not hold, ENC_PUSH passes over it (R102, log entry 8). -/
def execEFlushShort (s : State) : Host.Outcome State Fault Refusal :=
  .next (if s.enc.flushTriggered ∧ s.enc.cc.length ≤ 1 then s.setEnc s.enc.flushShort else s)

/-- E.APPEND (41_encoder R111): the byte joins the run unless it was absorbed. -/
def execEAppend (b : Byte) (s : State) : Host.Outcome State Fault Refusal := .next (s.setEnc (s.enc.appendStep b))

/-- E.EVICT (41_encoder R112). -/
def execEEvict (s : State) : Host.Outcome State Fault Refusal := .next (s.setEnc s.enc.evict)

/-- E.DRAIN (41_encoder R114). The rules give it only at the frame's last byte (R102, R113); that the row, run alone, drains in
every state is the model's choice (log entry 18). -/
def execEDrain (s : State) : Host.Outcome State Fault Refusal := .next (s.setEnc s.enc.drain)

/-- Reserved code 000, unit E (30_encoding R63, 60_exceptions R164, R168). -/
def execReserved000 (s : State) : Host.Outcome State Fault Refusal :=
  .next (s.setEnc (s.enc.setPort s.enc.port.misuse))

/-- Reserved code 011, unit E (30_encoding R63, 60_exceptions R164, R168). -/
def execReserved011 (s : State) : Host.Outcome State Fault Refusal :=
  .next (s.setEnc (s.enc.setPort s.enc.port.misuse))

end Sys2Proof.Machine
end

