-- ==== Sys2Proof/Machine/Dispatch.lean ====
section
/-! DEFINITION. The one match over the instructions: each arm is one call of that row's meaning. -/

namespace Sys2Proof.Machine

def exec (i : Instr) (s : State) : Host.Outcome State Fault Refusal :=
  match i with
  | .encStart w n => Sys2Proof.Machine.execEncStart w n s
  | .encPush b => Sys2Proof.Machine.execEncPush b s
  | .decStart n => Sys2Proof.Machine.execDecStart n s
  | .decPush b => Sys2Proof.Machine.execDecPush b s
  | .reserved000 => Sys2Proof.Machine.execReserved000 s
  | .reserved011 => Sys2Proof.Machine.execReserved011 s
  | .reserved100 => Sys2Proof.Machine.execReserved100 s
  | .reserved111 => Sys2Proof.Machine.execReserved111 s
  | .tokOpen => Sys2Proof.Machine.execTokOpen s
  | .tokSep => Sys2Proof.Machine.execTokSep s
  | .tokClose => Sys2Proof.Machine.execTokClose s
  | .tokChar b => Sys2Proof.Machine.execTokChar b s
  | .lit b => Sys2Proof.Machine.execLit b s
  | .copy o l => Sys2Proof.Machine.execCopy o l s
  | .mLocate needle hay => Sys2Proof.Machine.execMLocate needle hay s
  | .eExtTest b => Sys2Proof.Machine.execEExtTest b s
  | .eAbsorb b => Sys2Proof.Machine.execEAbsorb b s
  | .eFlushRun => Sys2Proof.Machine.execEFlushRun s
  | .eFlushShort => Sys2Proof.Machine.execEFlushShort s
  | .eAppend b => Sys2Proof.Machine.execEAppend b s
  | .eEvict => Sys2Proof.Machine.execEEvict s
  | .eDrain => Sys2Proof.Machine.execEDrain s
  | .dCopy o l => Sys2Proof.Machine.execDCopy o l s
  | .dEndOfInput => Sys2Proof.Machine.execDEndOfInput s

end Sys2Proof.Machine
end

