-- ==== Sys2Proof/Machine/Fetch.lean ====
section
/-! DEFINITION. How the machine comes by its next transition: it takes what the host issued, in issue order (20_memory R40,
R46), a command word or a power-on reset (70_reset_and_hazards R190). And how one row of the opcode table is put before it. -/

namespace Sys2Proof.Machine

/-- The command a word on a command channel stands for, at the width the CORE was built with. -/
def fetchCmd (cfg : Config) (w : Nat) : Instr := decodeCmdNum cfg.idxW w

/-- One transition for one thing the host does: a command is executed whole (00_scope R8); reset answers nothing. -/
def takeInput (x : HostInput) (s : State) : Host.Outcome State Fault Refusal :=
  match x with
  | .word w => exec (fetchCmd s.cfg w) s
  | .powerOn => .next s.powerOn

/-- Puts a command word before everything else the host has issued. -/
def State.issue (w : Nat) (s : State) : State := { s with cmds := .word w :: s.cmds }

/-- The machine built with the `IDX_W` at which the opcode table is read: a row of the table is a word of that build. -/
def State.atTableWidth (s : State) : State := { s with cfg := { s.cfg with idxW := Config.tableIdxW } }

/-- Puts a stream byte before the decoder: a frame is open with at least one more byte to come, the parser stands in state
`st`, and the next command is DEC_PUSH of that byte (42_decoder R132). -/
def State.issueStream (st : ParserState) (b : Byte) (s : State) : State :=
  let d := { s.dec with port := { s.dec.port with status := .busy }, n := s.dec.i + 2, state := st }
  { s with dec := d }.issue (cmdWord s.cfg.idxW 6 0 b.toNat).toNat

/-- Puts a row of the opcode table, given as its bits, before the machine built at the table's width. A command word is
issued. A stream byte is put before a decoder inside a token, as `decodeTableWord` reads it. A token is put before a decoder
that has taken all of it but its closing mark. -/
def placeTableWord (nbits w : Nat) (s : State) : State :=
  let s := s.atTableWidth
  if nbits = 8 then s.issueStream .offset (BitVec.ofNat 8 w)
  else
    match wholeToken (bytesOf (nbits / 8) w) with
    | some (.copy o l) => { s with dec := { s.dec with ob := dec o, lb := dec l } }.issueStream .length markClose
    | some _ => s
    | none => s.issue w

end Sys2Proof.Machine
end

