-- ==== Sys2Proof/Machine/Step.lean ====
section
/-! DEFINITION. One step of the machine. -/

namespace Sys2Proof.Machine

/-- One step: the next thing the host issued happens, whole. With nothing issued the units wait and keep all their state
(60_exceptions R170, R173). -/
def step (s : State) : Host.Outcome State Fault Refusal :=
  match s.cmds with
  | [] => .next s
  | x :: rest => takeInput x (s.setCmds rest)

/-- `s` with one row of spec/opcode_table.json put where `step` takes its next command from. -/
def State.withFetchWord (s : State) (nbits w : Nat) : State := placeTableWord nbits w s

end Sys2Proof.Machine
end

