-- ==== Sys2Proof/Machine/Frame.lean ====
section
/-! DEFINITION. Frames: the pseudo-instructions ENCODE and DECODE as command sequences (30_encoding R80, 41_encoder R100,
42_decoder R130), and the functions Encode (41_encoder R115) and Decode (42_decoder R140) written without commands. -/

namespace Sys2Proof.Machine

/-- The bytes a command of unit `u` emitted, read off the state after it. -/
def State.emitted (u : UnitId) (s : State) : List Byte :=
  match s.response u with
  | some p => p.dout
  | none => []

/-- Runs commands of unit `u` one after another and concatenates what they emit; nothing if one of them stops the model. -/
def runCommands (u : UnitId) : List Instr → State → Option (State × List Byte)
  | [], s => some (s, [])
  | i :: is, s =>
    match exec i s with
    | .next t =>
      match runCommands u is t with
      | some (r, out) => some (r, t.emitted u ++ out)
      | none => none
    | .fault _ => none
    | .refused _ => none

/-- `ENCODE(W, s)` (30_encoding R80). -/
def encodeFrame (w : Nat) (s : List Byte) : List Instr := .encStart w s.length :: s.map .encPush

/-- `DECODE(s)` (30_encoding R80). -/
def decodeFrame (s : List Byte) : List Instr := .decStart s.length :: s.map .decPush

/-- What a flush emits in `Encode` (41_encoder R115). -/
def flushText (cc sb : List Byte) : List Byte :=
  if cc.length > 1 then
    match locate cc sb with
    | .found r => if toklen (sb.length - r) cc.length ≤ cc.length then tokenText (sb.length - r) cc.length else cc
    | .nf => cc
  else cc

/-- The last line of the loop body of `Encode`. -/
def trim (w : Nat) (sb : List Byte) : List Byte := if sb.length > w then sb.drop 1 else sb

/-- The loop of `Encode` (41_encoder R115) from a search buffer and a candidate run on; it answers the bytes still to come.
A byte is the last one when no byte follows it. -/
def encodeLoop (w : Nat) : List Byte → List Byte → List Byte → List Byte
  | [], _, cc => cc
  | b :: rest, sb, cc =>
    let ext := cc ++ [b]
    let found := (locate ext sb).isFound
    let last := rest.isEmpty
    if !found || last then
      if last && found then flushText ext sb ++ encodeLoop w rest (trim w (sb ++ ext)) []
      else flushText cc sb ++ encodeLoop w rest (trim w (sb ++ cc)) [b]
    else encodeLoop w rest (trim w sb) ext

/-- `Encode(s, W)` (41_encoder R115). The rule gives it no value for `W = 0`, for `W > W_MAX` or for `|s| >= 2^IDX_W`; that this
function answers what the loop gives there too is the model's choice (log entry 19). -/
def encodeFn (w : Nat) (s : List Byte) : List Byte := encodeLoop w s [] []

/-- What `Decode` answers: the output, or the fault. -/
inductive DecodeResult where
  | output (bs : List Byte)
  | fail (f : FaultCode)
deriving DecidableEq, Repr

/-- The loop of `Decode` (42_decoder R140) from an output, a parser state and two digit buffers on. -/
def decodeLoop (cap : Option Nat) : List Byte → List Byte → ParserState → List Byte → List Byte → DecodeResult
  | [], out, _, _, _ => .output out
  | b :: rest, out, st, ob, lb =>
    if b = markOpen then decodeLoop cap rest out .offset [] []
    else if st ≠ .outside ∧ b = markSep then decodeLoop cap rest out .length ob lb
    else if st ≠ .outside ∧ b = markClose then
      if isnum ob ∧ isnum lb then
        let n := out.length
        let a := min (val ob) n
        let cnt := min (val lb) a
        if fitsCap cap (n + cnt) then decodeLoop cap rest (out ++ (out.drop (n - a)).take cnt) .outside [] []
        else .fail .fCapacity
      else .fail .fParse
    else
      match st with
      | .offset => decodeLoop cap rest out .offset (ob ++ [b]) lb
      | .length => decodeLoop cap rest out .length ob (lb ++ [b])
      | .outside =>
        if fitsCap cap (out.length + 1) then decodeLoop cap rest (out ++ [b]) .outside ob lb else .fail .fCapacity

/-- `Decode(t)` (42_decoder R140). -/
def decodeFn (cap : Option Nat) (t : List Byte) : DecodeResult := decodeLoop cap t [] .outside [] []

end Sys2Proof.Machine
end

