-- ==== Sys2Proof/Safety.lean ====
section
/-! DEFINITION. What the claims mean by a good state: the invariants of each unit and of the machine, from the ranges of
10_state and the derived bounds of 41_encoder and 42_decoder (every step keeps them; see the obligations); and the words
the claims about commands use. -/

namespace Sys2Proof.Machine

/-- STATUS is FAULT exactly when a fault is recorded (10_state R12, 60_exceptions R166). -/
abbrev Port.Consistent (p : Port) : Prop := p.status = .fault ↔ p.fault ≠ .fNone

/-- The condition bits are dead (10_state R18). -/
abbrev Enc.BitsDead (e : Enc) : Prop := e.found = false ∧ e.last = false ∧ e.absorbed = false ∧ e.fits = false

/-- The size bounds of unit E for its window: 41_encoder R121 (in the form `|E.SB| + |E.CC|`, which implies it) and R122. -/
abbrev Enc.Bounded (e : Enc) : Prop := e.sb.length + e.cc.length ≤ 2 * e.w ∧ e.cc.length ≤ e.w

/-- The counter and the window of unit E are in range (10_state R13, R14, R15). The window is the reset value or one that
ENC_START accepted (10_state R13, 41_encoder R101). -/
abbrev Enc.InRange (cfg : Config) (e : Enc) : Prop :=
  e.i ≤ e.n ∧ e.n < 2 ^ cfg.idxW ∧ 1 ≤ e.w ∧ (e.w ≤ cfg.wMax ∨ (e.w = Config.wDefault ∧ e.sb = [] ∧ e.cc = []))

/-- What each status of unit E says (10_state R11, R17): IDLE is the reset state; BUSY has a byte to come and a legal window,
and the run is empty exactly before the first byte; DONE has none to come and nothing pending. -/
abbrev Enc.StatusInv (cfg : Config) (e : Enc) : Prop :=
  (e.port.status = .idle → e = Enc.reset) ∧
  (e.port.status = .busy → e.i < e.n ∧ e.w ≤ cfg.wMax ∧ (e.cc = [] ↔ e.i = 0) ∧ e.sb.length + e.cc.length ≤ e.i) ∧
  (e.port.status = .done → e.i = e.n ∧ e.w ≤ cfg.wMax ∧ e.cc = [])

/-- The invariant of unit E. -/
structure Enc.Inv (cfg : Config) (e : Enc) : Prop where
  port    : e.port.Consistent
  /-- Unit E raises F_INVALID_ARG and F_PROTOCOL only (60_exceptions R160). -/
  codes   : e.port.fault ≠ .fParse ∧ e.port.fault ≠ .fCapacity
  bits    : e.BitsDead
  bounded : e.Bounded
  range   : e.InRange cfg
  status  : e.StatusInv cfg

/-- No mark of the grammar stands in a digit buffer (30_encoding R66: TOK_CHAR takes only other bytes). -/
abbrev noMarks (bs : List Byte) : Prop := ∀ b ∈ bs, b ≠ markOpen ∧ b ≠ markSep ∧ b ≠ markClose

/-- The two invariants of 42_decoder R151, and what the digit buffers may hold. -/
abbrev Dec.ParserInv (d : Dec) : Prop :=
  (d.state = .outside → d.ob = [] ∧ d.lb = []) ∧ (d.state = .offset → d.lb = []) ∧ noMarks d.ob ∧ noMarks d.lb

/-- What each status of unit D says (10_state R20, R23; 42_decoder R139). -/
abbrev Dec.StatusInv (d : Dec) : Prop :=
  (d.port.status = .idle → d = Dec.reset) ∧
  (d.port.status = .busy → d.i < d.n) ∧
  (d.port.status = .done → d.i = d.n ∧ d.ob = [] ∧ d.lb = [])

/-- The invariant of unit D. -/
structure Dec.Inv (cfg : Config) (d : Dec) : Prop where
  port    : d.port.Consistent
  /-- Unit D never raises F_INVALID_ARG (60_exceptions R160). -/
  codes   : d.port.fault ≠ .fInvalidArg
  parser  : d.ParserInv
  range   : d.i ≤ d.n ∧ d.n < 2 ^ cfg.idxW
  /-- The history fits (10_state R10, 42_decoder R150). -/
  history : fitsCap cfg.outCap d.out.length = true
  status  : d.StatusInv

/-- The invariant of the machine: legal parameters, both units, and nothing handed back by the matcher (10_state R29). -/
structure State.Inv (s : State) : Prop where
  legal   : s.cfg.Legal
  enc     : s.enc.Inv s.cfg
  dec     : s.dec.Inv s.cfg
  matcher : s.loc = .nf

/-! ### Words the claims use -/

/-- A matcher's result with its index counted from `k` bytes earlier. -/
def Locate.shift (k : Nat) : Locate → Locate
  | .found r => .found (k + r)
  | .nf => .nf

/-- The source's `referenced`: the first `min(L, a)` of the last `a = min(O, n)` bytes of the history (42_decoder R136). -/
def Dec.referenced (o l : Nat) (d : Dec) : List Byte :=
  (d.out.drop (d.out.length - min o d.out.length)).take (min l (min o d.out.length))

/-- Unit D after a DEC_PUSH in status BUSY whose byte's action left the parser in `st`, the digit buffers `ob` and `lb`, and
produced `bytes`: the counter has advanced, and with the frame's last byte the digit buffers are empty and the status
is DONE (42_decoder R132, R139). -/
def Dec.afterByte (st : ParserState) (ob lb bytes : List Byte) (d : Dec) : Dec where
  port := { status := if d.i + 1 = d.n then .done else d.port.status, fault := d.port.fault, dout := bytes }
  n := d.n
  i := d.i + 1
  state := st
  ob := if d.i + 1 = d.n then [] else ob
  lb := if d.i + 1 = d.n then [] else lb
  out := d.out ++ bytes

/-- Unit D after `raise F` (60_exceptions R166): all but its port as it was. -/
def Dec.faulted (f : FaultCode) (d : Dec) : Dec := { d with port := { status := .fault, fault := f, dout := [] } }

/-- Unit E after `raise F` (60_exceptions R166): all but its port as it was. -/
def Enc.faulted (f : FaultCode) (e : Enc) : Enc := { e with port := { status := .fault, fault := f, dout := [] } }

end Sys2Proof.Machine
end

