-- ==== Sys2Proof/Certificates/Slice0/Obligations.lean ====
section
/-! DEFINITION. The statements for the provers. Each says which rules of the spec it formalises. An equation
`exec i s = .next { s with ... }` states the result AND the frame: every field not named is unchanged. -/

open Sys2Proof Sys2Proof.Machine

/-! ### Encodings -/

/-- Command words of the spec's programs PR1 and PR2 and one of each reserved code, written from the fields of R60, decode to
the commands they stand for. -/
def Obligations.CommandWordsFromTheSpec : Prop :=
  decodeCmd 32 0x1000010000000000D = .encStart 4096 13 ∧ decodeCmd 32 0x20000000000000041 = .encPush 0x41 ∧
  decodeCmd 32 0x5000000000000000C = .decStart 12 ∧ decodeCmd 32 0x60000000000000061 = .decPush 0x61 ∧
  decodeCmd 32 0x00000000000000000 = .reserved000 ∧ decodeCmd 32 0x30000000000000000 = .reserved011 ∧
  decodeCmd 32 0x40000000000000000 = .reserved100 ∧ decodeCmd 32 0x70000000000000000 = .reserved111

/-- For every width `IDX_W`, every well-formed host command has a word, and the word decodes to the command
(R60, R61, R62, R63): no operand bit is dropped. -/
def Obligations.CommandRoundTrip : Prop :=
  ∀ (k : Nat) (i : Instr), i.isCommand = true → i.wellFormed k = true →
    ∃ w, encodeCmd k i = some w ∧ decodeCmd k w = i

/-- From R61 and R62, for every width: what each `op` means, which fields it reads, and that the ignored ones change nothing.
For widths below 8, where `B` has no bits 7 to 0, the byte of a PUSH is the model's choice of log entry 1. -/
def Obligations.OperationCodesAndIgnoredBits : Prop :=
  ∀ (k op a b : Nat), op < 8 → a < 2 ^ k → b < 2 ^ k →
    (op = 1 → decodeCmd k (cmdWord k op a b) = .encStart a b) ∧
    (op = 2 → decodeCmd k (cmdWord k op a b) = .encPush (BitVec.ofNat 8 b)) ∧
    (op = 5 → decodeCmd k (cmdWord k op a b) = .decStart b) ∧
    (op = 6 → decodeCmd k (cmdWord k op a b) = .decPush (BitVec.ofNat 8 b)) ∧
    (op = 0 → decodeCmd k (cmdWord k op a b) = .reserved000) ∧
    (op = 3 → decodeCmd k (cmdWord k op a b) = .reserved011) ∧
    (op = 4 → decodeCmd k (cmdWord k op a b) = .reserved100) ∧
    (op = 7 → decodeCmd k (cmdWord k op a b) = .reserved111)

/-- R66: every pair of a parser state and a byte falls in exactly one row of the table. -/
def Obligations.StreamClassesCoverAndExclude : Prop :=
  ∀ (st : ParserState) (b : Byte),
    (decodeStream st b = .tokOpen ∨ decodeStream st b = .tokSep ∨ decodeStream st b = .tokClose ∨
      decodeStream st b = .tokChar b ∨ decodeStream st b = .lit b) ∧
    (decodeStream st b = .tokOpen ↔ b = 0x3C#8) ∧
    (decodeStream st b = .tokSep ↔ st ≠ .outside ∧ b = 0x2C#8) ∧
    (decodeStream st b = .tokClose ↔ st ≠ .outside ∧ b = 0x3E#8) ∧
    (decodeStream st b = .tokChar b ↔ st ≠ .outside ∧ b ≠ 0x3C#8 ∧ b ≠ 0x2C#8 ∧ b ≠ 0x3E#8) ∧
    (decodeStream st b = .lit b ↔ st = .outside ∧ b ≠ 0x3C#8)

/-- From R65, R67, R69, R70, R71: the bytes of every literal and of every token, whatever follows them, read back as that literal
or that token, and nothing of what follows is taken. -/
def Obligations.StreamRoundTrip : Prop :=
  (∀ (o l : Nat) (rest : List Byte), decodeToken (tokenText o l ++ rest) = .read (.copy o l) rest) ∧
  (∀ (b : Byte) (rest : List Byte), b ≠ 0x3C#8 → decodeToken (b :: rest) = .read (.lit b) rest)

/-- R70: `dec` is the shortest decimal spelling. -/
def Obligations.DecimalSpelling : Prop :=
  (∀ n, n ≤ 9 → dec n = [BitVec.ofNat 8 (0x30 + n)]) ∧
  (∀ n, 10 ≤ n → dec n = dec (n / 10) ++ [BitVec.ofNat 8 (0x30 + n % 10)]) ∧
  (∀ n, 1 ≤ n → 10 ^ ((dec n).length - 1) ≤ n ∧ n < 10 ^ (dec n).length) ∧
  (∀ n, 1 ≤ n → (dec n).head? ≠ some 0x30#8)

/-- R71: what `isnum` and `val` are; leading zeros are accepted and change nothing. -/
def Obligations.DecimalParsing : Prop :=
  (∀ s, isnum s = true ↔ s ≠ [] ∧ ∀ b ∈ s, 0x30 ≤ b.toNat ∧ b.toNat ≤ 0x39) ∧
  (∀ d : Byte, val [d] = d.toNat - 0x30) ∧
  (∀ (s : List Byte) (d : Byte), val (s ++ [d]) = 10 * val s + (d.toNat - 0x30)) ∧
  (∀ s : List Byte, val (0x30#8 :: s) = val s)

/-- From R70 and R71, which agree: a spelled number is a number and parses back, and two numbers spelled alike are equal. -/
def Obligations.NumbersRoundTrip : Prop :=
  (∀ n, isnum (dec n) = true ∧ val (dec n) = n) ∧ (∀ m n, dec m = dec n → m = n)

/-- R72: `toklen(O, L)` is the number of bytes of the token emitted for `O` and `L`. -/
def Obligations.TokenTextLength : Prop :=
  ∀ o l, toklen o l = 3 + (dec o).length + (dec l).length ∧ (tokenText o l).length = toklen o l

/-- From R149: the three-field form of a digit buffer says all the decoder uses: `isnum` and the saturated value. -/
def Obligations.CompactDigitsSuffice : Prop :=
  ∀ (sat : Nat) (s : List Byte),
    isnum s = ((DigitSummary.ofBytes sat s).nonempty && !(DigitSummary.ofBytes sat s).bad) ∧
    (isnum s = true → (DigitSummary.ofBytes sat s).value = min (val s) sat)

/-! ### The matcher -/

/-- R93, with the range of R90: a found index is one where the needle really stands. -/
def Obligations.LocateIsSound : Prop :=
  ∀ (needle hay : List Byte) (r : Nat), locate needle hay = .found r →
    r + needle.length ≤ hay.length ∧ (hay.drop r).take needle.length = needle

/-- R95: the prefix law, for one and the same haystack. -/
def Obligations.LocatePrefixLaw : Prop :=
  ∀ (x hay : List Byte) (b : Byte) (r : Nat), x ≠ [] → locate (x ++ [b]) hay = .found r →
    ∃ r', locate x hay = .found r' ∧ r' ≤ r

/-- From R91, R92 and R94, with decisions D6 and D7: nothing is found in a haystack shorter than the needle, nor in an empty
one; and the three laws that fix M.LOCATE on every needle of at least one byte. A haystack that begins with the needle gives
index 0, also where nothing follows it (D7). Where the haystack's first `c` bytes match and the next one does not, that byte
is consumed and the scan begins again after it (D6). A haystack that is a proper prefix of the needle gives NF. -/
def Obligations.LocateNeedsRoom : Prop :=
  (∀ needle hay : List Byte, hay.length < needle.length → locate needle hay = .nf) ∧
  (∀ needle : List Byte, locate needle [] = .nf) ∧
  (∀ needle rest : List Byte, needle ≠ [] → locate needle (needle ++ rest) = .found 0) ∧
  (∀ (needle rest : List Byte) (c : Nat) (v : Byte), c < needle.length → needle[c]? ≠ some v →
    locate needle (needle.take c ++ v :: rest) = (locate needle rest).shift (c + 1)) ∧
  (∀ (needle : List Byte) (c : Nat), c < needle.length → locate needle (needle.take c) = .nf)

/-- From R91: a one-byte needle is found exactly when it occurs, at its first occurrence. -/
def Obligations.LocateOneByteIsExact : Prop :=
  ∀ (a : Byte) (hay : List Byte) (r : Nat),
    locate [a] hay = .found r ↔ hay[r]? = some a ∧ ∀ j, j < r → hay[j]? ≠ some a

/-- From R90, R91 and R96: with a needle of at least one byte M.LOCATE completes; it hands back its result (log entry 6) and
writes nothing of the machine's state. With an empty needle it has no meaning, and the model refuses it. -/
def Obligations.LocateRow : Prop :=
  ∀ (needle hay : List Byte) (s : State),
    (needle ≠ [] → exec (.mLocate needle hay) s = .next { s with loc := locate needle hay }) ∧
    exec (.mLocate [] hay) s = .refused .emptyNeedle

/-! ### The encoder's micro-operations -/

/-- R103: E.EXT_TEST writes the `found` bit only, from the matcher's answer on `E.CC ++ [b]` in `E.SB`. -/
def Obligations.ExtTestWritesFound : Prop :=
  ∀ (b : Byte) (s : State), exec (.eExtTest b) s =
    .next { s with enc := { s.enc with found := decide (locate (s.enc.cc ++ [b]) s.enc.sb ≠ .nf) } }

/-- From R106 and R111: when `last and found`, E.ABSORB appends the byte to the run and sets `absorbed`; E.APPEND appends the
byte to the run, except when it was absorbed. -/
def Obligations.AbsorbAndAppend : Prop :=
  ∀ (b : Byte) (s : State),
    (s.enc.last = true → s.enc.found = true →
      exec (.eAbsorb b) s = .next { s with enc := { s.enc with cc := s.enc.cc ++ [b], absorbed := true } }) ∧
    (s.enc.absorbed = false → exec (.eAppend b) s = .next { s with enc := { s.enc with cc := s.enc.cc ++ [b] } }) ∧
    (s.enc.absorbed = true → exec (.eAppend b) s = .next s)

/-- R107 and R109, with R108 and R125: E.FLUSH_RUN emits the token when the run is located and the token is not longer than the
run, else the run itself; either way the run goes to the end of the search buffer and a new run starts empty. -/
def Obligations.FlushRunEmitsTokenOrRun : Prop :=
  ∀ s : State, (s.enc.found = false ∨ s.enc.last = true) → 1 < s.enc.cc.length →
    (locate s.enc.cc s.enc.sb = .nf →
      exec .eFlushRun s = .next { s with enc := { s.enc with
        port := { s.enc.port with dout := s.enc.port.dout ++ s.enc.cc }, sb := s.enc.sb ++ s.enc.cc, cc := [] } }) ∧
    (∀ r, locate s.enc.cc s.enc.sb = .found r → toklen (s.enc.sb.length - r) s.enc.cc.length ≤ s.enc.cc.length →
      exec .eFlushRun s = .next { s with enc := { s.enc with
        port := { s.enc.port with
          dout := s.enc.port.dout ++ ([0x3C#8] ++ dec (s.enc.sb.length - r) ++ [0x2C#8] ++ dec s.enc.cc.length ++ [0x3E#8]) },
        sb := s.enc.sb ++ s.enc.cc, cc := [], fits := true } }) ∧
    (∀ r, locate s.enc.cc s.enc.sb = .found r → s.enc.cc.length < toklen (s.enc.sb.length - r) s.enc.cc.length →
      exec .eFlushRun s = .next { s with enc := { s.enc with
        port := { s.enc.port with dout := s.enc.port.dout ++ s.enc.cc }, sb := s.enc.sb ++ s.enc.cc, cc := [],
        fits := false } })

/-- R110: E.FLUSH_SHORT emits a run of 0 or 1 byte as it is, appends it to the search buffer and empties it. -/
def Obligations.FlushShortEmitsTheRun : Prop :=
  ∀ s : State, (s.enc.found = false ∨ s.enc.last = true) → s.enc.cc.length ≤ 1 →
    exec .eFlushShort s = .next { s with enc := { s.enc with
      port := { s.enc.port with dout := s.enc.port.dout ++ s.enc.cc }, sb := s.enc.sb ++ s.enc.cc, cc := [] } }

/-- R112: E.EVICT drops exactly the oldest byte, and only when the buffer is strictly longer than `E.W`. -/
def Obligations.EvictDropsOneAboveTheWindow : Prop :=
  ∀ s : State,
    (s.enc.w < s.enc.sb.length → exec .eEvict s = .next { s with enc := { s.enc with sb := s.enc.sb.drop 1 } }) ∧
    (s.enc.sb.length ≤ s.enc.w → exec .eEvict s = .next s)

/-- From R114: E.DRAIN emits the pending run and empties it; the search buffer is left alone. That
the row, run alone, does so in every state, and not at the frame's last byte only, is the model's choice of log entry 18. -/
def Obligations.DrainEmitsThePendingRun : Prop :=
  ∀ s : State, exec .eDrain s = .next { s with enc := { s.enc with
    port := { s.enc.port with dout := s.enc.port.dout ++ s.enc.cc }, cc := [] } }

/-- The model's choice of log entry 8, read from R102: an encoder micro-operation whose condition does not hold is passed
over, so as a row of the table it changes nothing. -/
def Obligations.MicroOperationsPassedOver : Prop :=
  ∀ (b : Byte) (s : State),
    (¬(s.enc.last = true ∧ s.enc.found = true) → exec (.eAbsorb b) s = .next s) ∧
    (s.enc.found = true ∧ s.enc.last = false → exec .eFlushRun s = .next s ∧ exec .eFlushShort s = .next s) ∧
    (s.enc.cc.length ≤ 1 → exec .eFlushRun s = .next s) ∧ (1 < s.enc.cc.length → exec .eFlushShort s = .next s)

/-! ### The encoder's commands -/

/-- From R101: ENC_START in every status. An acceptable window opens the frame; any other raises F_INVALID_ARG after the buffers
and the counter were cleared, with `E.W` and `E.N` as they were (R167 (a)). That the condition bits are false after it is the model's choice of log
entry 5. -/
def Obligations.EncStartOpensOrRefuses : Prop :=
  ∀ (w n : Nat) (s : State), ∃ e : Enc, exec (.encStart w n) s = .next { s with enc := e } ∧
    e.sb = [] ∧ e.cc = [] ∧ e.i = 0 ∧ e.port.dout = [] ∧ e.BitsDead ∧
    (1 ≤ w ∧ w ≤ s.cfg.wMax →
      e.port.status = (if n = 0 then .done else .busy) ∧ e.port.fault = .fNone ∧ e.w = w ∧ e.n = n) ∧
    (w = 0 ∨ s.cfg.wMax < w →
      e.port.status = .fault ∧ e.port.fault = .fInvalidArg ∧ e.w = s.enc.w ∧ e.n = s.enc.n)

/-- From R102, R104 to R107 and R109 to R114: ENC_PUSH in status BUSY always completes, in one of four ways by whether the
run still extends and whether the byte is the last; the condition bits are dead after it (log entry 5).
`flushText` is what the flush of R107 or R110 emits. -/
def Obligations.EncPushTurn : Prop :=
  ∀ (b : Byte) (s : State), s.enc.port.status = .busy →
    ∃ e : Enc, exec (.encPush b) s = .next { s with enc := e } ∧ e.w = s.enc.w ∧ e.n = s.enc.n ∧ e.i = s.enc.i + 1 ∧
      e.port.fault = s.enc.port.fault ∧ e.port.status = (if s.enc.i + 1 = s.enc.n then .done else .busy) ∧ e.BitsDead ∧
      (locate (s.enc.cc ++ [b]) s.enc.sb ≠ .nf → s.enc.i + 1 ≠ s.enc.n →
        e.sb = trim s.enc.w s.enc.sb ∧ e.cc = s.enc.cc ++ [b] ∧ e.port.dout = []) ∧
      (locate (s.enc.cc ++ [b]) s.enc.sb = .nf → s.enc.i + 1 ≠ s.enc.n →
        e.sb = trim s.enc.w (s.enc.sb ++ s.enc.cc) ∧ e.cc = [b] ∧ e.port.dout = flushText s.enc.cc s.enc.sb) ∧
      (locate (s.enc.cc ++ [b]) s.enc.sb ≠ .nf → s.enc.i + 1 = s.enc.n →
        e.sb = trim s.enc.w (s.enc.sb ++ (s.enc.cc ++ [b])) ∧ e.cc = [] ∧
          e.port.dout = flushText (s.enc.cc ++ [b]) s.enc.sb) ∧
      (locate (s.enc.cc ++ [b]) s.enc.sb = .nf → s.enc.i + 1 = s.enc.n →
        e.sb = trim s.enc.w (s.enc.sb ++ s.enc.cc) ∧ e.cc = [] ∧
          e.port.dout = flushText s.enc.cc s.enc.sb ++ [b])

/-- From R119: when E.FLUSH_RUN emits a token, it refers to real data and has at least five bytes to stand for. -/
def Obligations.EmittedTokenShape : Prop :=
  ∀ (cc sb : List Byte) (r : Nat), 1 < cc.length → locate cc sb = .found r →
    toklen (sb.length - r) cc.length ≤ cc.length →
    5 ≤ cc.length ∧ cc.length ≤ sb.length - r ∧ sb.length - r ≤ sb.length ∧ (sb.drop r).take cc.length = cc

/-- From R121 and R122, in every state that meets the invariant: inside an ENC_PUSH the search buffer holds at most `2*E.W` bytes,
one more with the frame's last byte, and so never more than `SB_CAP`; the run at most `E.W`, never more than `CC_CAP`: before the
command, with the byte that still extends it (which E.ABSORB or E.APPEND stores), and just before E.EVICT. -/
def Obligations.BuffersStayWithinCapacity : Prop :=
  ∀ (b : Byte) (s : State), s.Inv → s.enc.port.status = .busy →
    ((s.enc.beforeEvict b).sb.length ≤ 2 * s.enc.w + (if s.enc.i + 1 = s.enc.n then 1 else 0)) ∧
    (s.enc.beforeEvict b).sb.length ≤ s.cfg.sbCap ∧
    s.enc.cc.length ≤ s.enc.w ∧ s.enc.cc.length ≤ s.cfg.ccCap ∧
    (locate (s.enc.cc ++ [b]) s.enc.sb ≠ .nf →
      s.enc.cc.length + 1 ≤ s.enc.w ∧ s.enc.cc.length + 1 ≤ s.cfg.ccCap) ∧
    (s.enc.beforeEvict b).cc.length ≤ s.enc.w ∧ (s.enc.beforeEvict b).cc.length ≤ s.cfg.ccCap

/-- From R19: one ENC_PUSH emits at most `E.W + 1` bytes. -/
def Obligations.EncPushEmitsLittle : Prop :=
  ∀ (b : Byte) (s t : State), s.Inv → exec (.encPush b) s = .next t → t.enc.port.dout.length ≤ s.enc.w + 1

/-! ### The decoder's commands -/

/-- R131: DEC_START in every status. -/
def Obligations.DecStartOpens : Prop :=
  ∀ (n : Nat) (s : State), exec (.decStart n) s = .next { s with dec := {
    port := { status := if n = 0 then .done else .busy, fault := .fNone, dout := [] }
    n := n, i := 0, state := .outside, ob := [], lb := [], out := [] } }

/-- From R132, R133, R134, R137 and R139: DEC_PUSH in status BUSY of a byte that opens, separates or fills a token. -/
def Obligations.DecPushInsideTokens : Prop :=
  ∀ (b : Byte) (s : State), s.dec.port.status = .busy →
    (b = 0x3C#8 → exec (.decPush b) s = .next { s with dec := s.dec.afterByte .offset [] [] [] }) ∧
    (s.dec.state ≠ .outside → b = 0x2C#8 →
      exec (.decPush b) s = .next { s with dec := s.dec.afterByte .length s.dec.ob s.dec.lb [] }) ∧
    (s.dec.state = .offset → b ≠ 0x3C#8 → b ≠ 0x2C#8 → b ≠ 0x3E#8 →
      exec (.decPush b) s = .next { s with dec := s.dec.afterByte .offset (s.dec.ob ++ [b]) s.dec.lb [] }) ∧
    (s.dec.state = .length → b ≠ 0x3C#8 → b ≠ 0x2C#8 → b ≠ 0x3E#8 →
      exec (.decPush b) s = .next { s with dec := s.dec.afterByte .length s.dec.ob (s.dec.lb ++ [b]) [] })

/-- From R132, R138 and R163: DEC_PUSH in status BUSY of a literal; F_CAPACITY when it does not fit, and nothing else changes. -/
def Obligations.DecPushLiteral : Prop :=
  ∀ (b : Byte) (s : State), s.dec.port.status = .busy → s.dec.state = .outside → b ≠ 0x3C#8 →
    (fitsCap s.cfg.outCap (s.dec.out.length + 1) = true →
      exec (.decPush b) s = .next { s with dec := s.dec.afterByte .outside s.dec.ob s.dec.lb [b] }) ∧
    (fitsCap s.cfg.outCap (s.dec.out.length + 1) = false →
      exec (.decPush b) s = .next { s with dec := s.dec.faulted .fCapacity })

/-- From R132, R135, R136, R162, R163 and R169: DEC_PUSH in status BUSY of a byte that closes a token. A malformed field is
F_PARSE, whatever the capacity; a copy that does not fit is F_CAPACITY; a faulting command changes nothing else. -/
def Obligations.DecPushClose : Prop :=
  ∀ s : State, s.dec.port.status = .busy → s.dec.state ≠ .outside →
    ((isnum s.dec.ob = false ∨ isnum s.dec.lb = false) →
      exec (.decPush 0x3E#8) s = .next { s with dec := s.dec.faulted .fParse }) ∧
    (isnum s.dec.ob = true → isnum s.dec.lb = true →
      fitsCap s.cfg.outCap (s.dec.out.length + min (val s.dec.lb) (min (val s.dec.ob) s.dec.out.length)) = true →
      exec (.decPush 0x3E#8) s =
        .next { s with dec := s.dec.afterByte .outside [] [] (s.dec.referenced (val s.dec.ob) (val s.dec.lb)) }) ∧
    (isnum s.dec.ob = true → isnum s.dec.lb = true →
      fitsCap s.cfg.outCap (s.dec.out.length + min (val s.dec.lb) (min (val s.dec.ob) s.dec.out.length)) = false →
      exec (.decPush 0x3E#8) s = .next { s with dec := s.dec.faulted .fCapacity })

/-- From R28: every byte appended to `D.OUT` by a DEC_PUSH is emitted on `D.DOUT`, in the same order, and none besides. -/
def Obligations.HistoryIsWhatWasEmitted : Prop :=
  ∀ (b : Byte) (s t : State), exec (.decPush b) s = .next t → t.dec.out = s.dec.out ++ t.dec.port.dout

/-! ### The rows of the stream and the decoder's micro-operations -/

/-- R133, R134 and R137: the rows TOK_OPEN (in any state), TOK_SEP and TOK_CHAR (inside a token). -/
def Obligations.TokenByteRows : Prop :=
  ∀ (b : Byte) (s : State),
    exec .tokOpen s = .next { s with dec := { s.dec with state := .offset, ob := [], lb := [] } } ∧
    (s.dec.state ≠ .outside → exec .tokSep s = .next { s with dec := { s.dec with state := .length } }) ∧
    (b ≠ 0x3C#8 → b ≠ 0x2C#8 → b ≠ 0x3E#8 → s.dec.state = .offset →
      exec (.tokChar b) s = .next { s with dec := { s.dec with ob := s.dec.ob ++ [b] } }) ∧
    (b ≠ 0x3C#8 → b ≠ 0x2C#8 → b ≠ 0x3E#8 → s.dec.state = .length →
      exec (.tokChar b) s = .next { s with dec := { s.dec with lb := s.dec.lb ++ [b] } })

/-- R138: the row LIT appends and emits its byte, or raises F_CAPACITY with nothing appended. -/
def Obligations.LiteralRow : Prop :=
  ∀ (b : Byte) (s : State), s.dec.state = .outside → b ≠ 0x3C#8 →
    (fitsCap s.cfg.outCap (s.dec.out.length + 1) = true → exec (.lit b) s = .next { s with dec := { s.dec with
      out := s.dec.out ++ [b], port := { s.dec.port with dout := s.dec.port.dout ++ [b] } } }) ∧
    (fitsCap s.cfg.outCap (s.dec.out.length + 1) = false →
      exec (.lit b) s = .next { s with dec := s.dec.faulted .fCapacity })

/-- R135, with R136: the row TOK_CLOSE inside a token. -/
def Obligations.CloseRow : Prop :=
  ∀ s : State, s.dec.state ≠ .outside →
    ((isnum s.dec.ob = false ∨ isnum s.dec.lb = false) →
      exec .tokClose s = .next { s with dec := s.dec.faulted .fParse }) ∧
    (isnum s.dec.ob = true → isnum s.dec.lb = true →
      fitsCap s.cfg.outCap (s.dec.out.length + min (val s.dec.lb) (min (val s.dec.ob) s.dec.out.length)) = true →
      exec .tokClose s = .next { s with dec := { s.dec with
        state := .outside, ob := [], lb := [], out := s.dec.out ++ s.dec.referenced (val s.dec.ob) (val s.dec.lb),
        port := { s.dec.port with dout := s.dec.port.dout ++ s.dec.referenced (val s.dec.ob) (val s.dec.lb) } } }) ∧
    (isnum s.dec.ob = true → isnum s.dec.lb = true →
      fitsCap s.cfg.outCap (s.dec.out.length + min (val s.dec.lb) (min (val s.dec.ob) s.dec.out.length)) = false →
      exec .tokClose s = .next { s with dec := s.dec.faulted .fCapacity })

/-- The reading of log entry 9, from R66, R134, R135 and R138: a separator or a closing mark met outside a token is a
literal, and so is a byte presented there as TOK_CHAR. -/
def Obligations.MarksOutsideAreLiterals : Prop :=
  ∀ (b : Byte) (s : State), s.dec.state = .outside →
    exec .tokSep s = exec (.lit 0x2C#8) s ∧ exec .tokClose s = exec (.lit 0x3E#8) s ∧
    (b ≠ 0x3C#8 → exec (.tokChar b) s = exec (.lit b) s)

/-- R136: D.COPY appends and emits the bytes the token refers to, or raises F_CAPACITY with nothing copied. -/
def Obligations.CopyUnitAppendsTheReferenced : Prop :=
  ∀ (o l : Nat) (s : State),
    (fitsCap s.cfg.outCap (s.dec.out.length + min l (min o s.dec.out.length)) = true →
      exec (.dCopy o l) s = .next { s with dec := { s.dec with
        out := s.dec.out ++ s.dec.referenced o l,
        port := { s.dec.port with dout := s.dec.port.dout ++ s.dec.referenced o l } } }) ∧
    (fitsCap s.cfg.outCap (s.dec.out.length + min l (min o s.dec.out.length)) = false →
      exec (.dCopy o l) s = .next { s with dec := s.dec.faulted .fCapacity })

/-- From R141 and R142, on the bytes copied: an offset beyond the start clamps to the whole history, and a length beyond the offset
is cut to the window. -/
def Obligations.CopyClampsAndTruncates : Prop :=
  ∀ (o l : Nat) (d : Dec),
    (d.out.length < o → d.referenced o l = d.out.take l) ∧
    (o ≤ d.out.length → o < l → d.referenced o l = d.out.drop (d.out.length - o) ∧ (d.referenced o l).length = o)

/-- From R143 and R144: an offset or a length of zero copies nothing, and is no fault. -/
def Obligations.ZeroFieldsCopyNothing : Prop :=
  ∀ (o l : Nat) (s : State), fitsCap s.cfg.outCap s.dec.out.length = true →
    exec (.dCopy 0 l) s = .next s ∧ exec (.dCopy o 0) s = .next s

/-- R146: saturating both fields at any bound not below `OUT_CAP` changes nothing. -/
def Obligations.SaturationIsHarmless : Prop :=
  ∀ (o l sat cap : Nat) (s : State), s.cfg.outCap = some cap → s.dec.out.length ≤ cap → cap ≤ sat →
    exec (.dCopy (min o sat) (min l sat)) s = exec (.dCopy o l) s

/-- From R65, R133 to R137 and the table's row COPY: the assembled token, met in any parser state, appends and emits the bytes
it refers to and leaves the parser outside; when they do not fit, F_CAPACITY is raised with the fields still held. -/
def Obligations.CopyTokenRow : Prop :=
  ∀ (o l : Nat) (s : State),
    (fitsCap s.cfg.outCap (s.dec.out.length + min l (min o s.dec.out.length)) = true →
      exec (.copy o l) s = .next { s with dec := { s.dec with
        state := .outside, ob := [], lb := [], out := s.dec.out ++ s.dec.referenced o l,
        port := { s.dec.port with dout := s.dec.port.dout ++ s.dec.referenced o l } } }) ∧
    (fitsCap s.cfg.outCap (s.dec.out.length + min l (min o s.dec.out.length)) = false →
      exec (.copy o l) s = .next { s with dec := { s.dec with
        state := .length, ob := dec o, lb := dec l, port := { status := .fault, fault := .fCapacity, dout := [] } } })

/-- From R139: D.END_OF_INPUT empties the digit buffers and ends the frame; `D.STATE` is left as it is. That the row, run
alone, does so in every status is the model's choice of log entry 17. -/
def Obligations.EndOfInputRow : Prop :=
  ∀ s : State, exec .dEndOfInput s =
    .next { s with dec := { s.dec with ob := [], lb := [], port := { s.dec.port with status := .done } } }

/-! ### Reserved codes, responses, reset -/

/-- R164, and from R63 and R168: a PUSH with no frame open, and a reserved code in any status but FAULT, raises
F_PROTOCOL in its unit and leaves all else as it was; in FAULT either is ignored and the first code is kept. -/
def Obligations.MisuseRaisesProtocol : Prop :=
  ∀ (b : Byte) (s : State),
    (s.enc.port.status = .idle ∨ s.enc.port.status = .done →
      exec (.encPush b) s = .next { s with enc := s.enc.faulted .fProtocol }) ∧
    (s.enc.port.status ≠ .fault →
      exec .reserved000 s = .next { s with enc := s.enc.faulted .fProtocol } ∧
      exec .reserved011 s = .next { s with enc := s.enc.faulted .fProtocol }) ∧
    (s.enc.port.status = .fault → ∀ i, i = .encPush b ∨ i = .reserved000 ∨ i = .reserved011 →
      exec i s = .next { s with enc := { s.enc with port := { s.enc.port with dout := [] } } }) ∧
    (s.dec.port.status = .idle ∨ s.dec.port.status = .done →
      exec (.decPush b) s = .next { s with dec := s.dec.faulted .fProtocol }) ∧
    (s.dec.port.status ≠ .fault →
      exec .reserved100 s = .next { s with dec := s.dec.faulted .fProtocol } ∧
      exec .reserved111 s = .next { s with dec := s.dec.faulted .fProtocol }) ∧
    (s.dec.port.status = .fault → ∀ i, i = .decPush b ∨ i = .reserved100 ∨ i = .reserved111 →
      exec i s = .next { s with dec := { s.dec with port := { s.dec.port with dout := [] } } })

/-- R64: the codes of the response. -/
def Obligations.ResponseCodes : Prop :=
  Status.idle.code = 0 ∧ Status.busy.code = 1 ∧ Status.done.code = 2 ∧ Status.fault.code = 3 ∧
  FaultCode.fNone.code = 0 ∧ FaultCode.fInvalidArg.code = 1 ∧ FaultCode.fParse.code = 2 ∧
  FaultCode.fCapacity.code = 3 ∧ FaultCode.fProtocol.code = 4 ∧ ∀ f : FaultCode, f.code.toNat < 5

/-- From R190, R33 and R5: what reset leaves; it may come at any time; it leaves the build parameters; with nothing issued
nothing changes. That what the host does after the reset stays issued is the model's choice of log entry 7. -/
def Obligations.ResetValues : Prop :=
  (∀ s : State, s = State.reset ∨ (∃ r : State, ∃ rest, r.cmds = .powerOn :: rest ∧ step r = .next s) →
    s.enc.port.status = .idle ∧ s.enc.port.fault = .fNone ∧ s.enc.w = 4096 ∧ s.enc.n = 0 ∧ s.enc.i = 0 ∧
    s.enc.sb = [] ∧ s.enc.cc = [] ∧
    s.dec.port.status = .idle ∧ s.dec.port.fault = .fNone ∧ s.dec.n = 0 ∧ s.dec.i = 0 ∧ s.dec.state = .outside ∧
    s.dec.ob = [] ∧ s.dec.lb = [] ∧ s.dec.out = []) ∧
  (∀ (r : State) (rest : List HostInput), r.cmds = .powerOn :: rest →
    ∃ s, step r = .next s ∧ s.cfg = r.cfg ∧ s.cmds = rest) ∧
  (∀ s : State, s.cmds = [] → step s = .next s)

/-! ### The whole machine -/

/-- A step runs the command the host issued next: the word is taken off the channel, decoded at the
width the machine was built with, and executed whole. -/
def Obligations.StepRunsTheIssuedCommand : Prop :=
  ∀ (s : State) (w : Nat) (rest : List HostInput), s.cmds = .word w :: rest →
    step s = exec (decodeCmd s.cfg.idxW (BitVec.ofNat (2 * s.cfg.idxW + 3) w)) { s with cmds := rest }

/-- From R202: every step answers a next state: no command word, and no state, stops the machine. -/
def Obligations.StepAlwaysAnswers : Prop := ∀ s : State, ∃ t, step s = .next t

/-- From R33 and R190: the machine after reset meets the invariant, whatever the build parameters are. The model's choices in
it: at least eight bits in `B` (log entry 1), `E.W` perhaps above `W_MAX` (log entry 3), DOUT empty (log entry 4), the condition
bits false (log entry 5), nothing handed back by the matcher (log entry 6). -/
def Obligations.ResetMeetsInvariant : Prop := State.reset.Inv

/-- From R10 to R28, R121, R122, R151 and R160: every step keeps the invariant, from every state that meets it. These clauses
of the invariant are the model's choices and no rule's: at least eight bits in `B` (log entry 1), `E.W = 4096` allowed above
`W_MAX` (log entry 3), DOUT empty in IDLE (log entry 4), the condition bits false (log entry 5), `loc = NF` (log entry 6). -/
def Obligations.StepKeepsInvariant : Prop := ∀ s t : State, s.Inv → step s = .next t → t.Inv

/-- From R10, R29 and R32: a row of unit E leaves unit D alone and a row of unit D leaves unit E alone, and what a row does to
its own unit depends on nothing of the other; no row writes the build parameters or what the host issues; only M.LOCATE
writes what it hands back. -/
def Obligations.UnitsShareNoState : Prop :=
  (∀ (i : Instr) (s t : State), exec i s = .next t →
    t.cfg = s.cfg ∧ t.cmds = s.cmds ∧ (i.unit ≠ .E → t.enc = s.enc) ∧ (i.unit ≠ .D → t.dec = s.dec) ∧
    (i.unit ≠ .M → t.loc = s.loc)) ∧
  (∀ (i : Instr) (s s' t t' : State), s.cfg = s'.cfg → exec i s = .next t → exec i s' = .next t' →
    (i.unit = .E → s.enc = s'.enc → t.enc = t'.enc) ∧ (i.unit = .D → s.dec = s'.dec → t.dec = t'.dec))

/-- From R46 (c) and R172: commands to E and commands to D commute. -/
def Obligations.UnitsCommute : Prop :=
  ∀ (i j : Instr) (s : State), i.unit = .E → j.unit = .D →
    ∃ a b c, exec i s = .next a ∧ exec j a = .next c ∧ exec j s = .next b ∧ exec i b = .next c

/-- From R34: an accepted START re-initialises its unit completely: what it leaves does not depend on what the unit was. -/
def Obligations.StartForgetsTheUnit : Prop :=
  (∀ (w n : Nat) (s s' t t' : State), 1 ≤ w → w ≤ s.cfg.wMax → s.cfg = s'.cfg →
    exec (.encStart w n) s = .next t → exec (.encStart w n) s' = .next t' → t.enc = t'.enc) ∧
  (∀ (n : Nat) (s s' t t' : State),
    exec (.decStart n) s = .next t → exec (.decStart n) s' = .next t' → t.dec = t'.dec)

/-- From R168: FAULT is sticky. A unit leaves it only by its own START or by reset, and the first code is kept. -/
def Obligations.FaultIsSticky : Prop :=
  ∀ s t : State, step s = .next t →
    (s.enc.port.status = .fault →
      (t.enc.port.status = .fault ∧ t.enc.port.fault = s.enc.port.fault) ∨
      (∃ x rest, s.cmds = x :: rest ∧ (x = .powerOn ∨ ∃ w a n, x = .word w ∧ decodeCmdNum s.cfg.idxW w = .encStart a n))) ∧
    (s.dec.port.status = .fault →
      (t.dec.port.status = .fault ∧ t.dec.port.fault = s.dec.port.fault) ∨
      (∃ x rest, s.cmds = x :: rest ∧ (x = .powerOn ∨ ∃ w n, x = .word w ∧ decodeCmdNum s.cfg.idxW w = .decStart n)))

/-- From R161 to R164 and R166: which host command can raise which fault, and from what cause, and that a command that faults emits nothing. -/
def Obligations.FaultOrigins : Prop :=
  ∀ (i : Instr) (s t : State), i.isCommand = true → exec i s = .next t →
    (t.enc.port.fault = .fInvalidArg → s.enc.port.fault ≠ .fInvalidArg →
      ∃ w n, i = .encStart w n ∧ (w = 0 ∨ s.cfg.wMax < w)) ∧
    (t.dec.port.fault = .fParse → s.dec.port.fault ≠ .fParse →
      i = .decPush 0x3E#8 ∧ s.dec.state ≠ .outside ∧ (isnum s.dec.ob = false ∨ isnum s.dec.lb = false)) ∧
    (t.dec.port.fault = .fCapacity → s.dec.port.fault ≠ .fCapacity → ∃ b, i = .decPush b ∧ s.dec.port.status = .busy ∧
      ((s.dec.state = .outside ∧ b ≠ 0x3C#8 ∧ fitsCap s.cfg.outCap (s.dec.out.length + 1) = false) ∨
       (s.dec.state ≠ .outside ∧ b = 0x3E#8 ∧ isnum s.dec.ob = true ∧ isnum s.dec.lb = true ∧
        fitsCap s.cfg.outCap (s.dec.out.length + min (val s.dec.lb) (min (val s.dec.ob) s.dec.out.length)) = false))) ∧
    (t.enc.port.fault = .fProtocol → s.enc.port.fault ≠ .fProtocol →
      ((∃ b, i = .encPush b) ∧ (s.enc.port.status = .idle ∨ s.enc.port.status = .done)) ∨
      ((i = .reserved000 ∨ i = .reserved011) ∧ s.enc.port.status ≠ .fault)) ∧
    (t.dec.port.fault = .fProtocol → s.dec.port.fault ≠ .fProtocol →
      ((∃ b, i = .decPush b) ∧ (s.dec.port.status = .idle ∨ s.dec.port.status = .done)) ∨
      ((i = .reserved100 ∨ i = .reserved111) ∧ s.dec.port.status ≠ .fault)) ∧
    (i.unit = .E → t.enc.port.status = .fault → t.enc.port.dout = []) ∧
    (i.unit = .D → t.dec.port.status = .fault → t.dec.port.dout = [])

/-! ### Frames -/

/-- From R115: from any state, the frame ENCODE(W, s) completes, ends DONE, and emits what the function Encode
gives. For an input of `2^IDX_W` bytes or more the frame is the model's own (log entry 19). -/
def Obligations.EncodeFrameIsEncode : Prop :=
  ∀ (w : Nat) (bytes : List Byte) (s : State), 1 ≤ w → w ≤ s.cfg.wMax →
    ∃ t, runCommands .E (encodeFrame w bytes) s = some (t, encodeFn w bytes) ∧ t.enc.port.status = .done ∧
      t.enc.port.fault = .fNone

/-- R140: from any state, the frame DECODE(t) ends DONE with what the function Decode gives, or in FAULT with its code. -/
def Obligations.DecodeFrameIsDecode : Prop :=
  ∀ (bytes : List Byte) (s : State), ∃ t out, runCommands .D (decodeFrame bytes) s = some (t, out) ∧
    (∀ o, decodeFn s.cfg.outCap bytes = .output o →
      out = o ∧ t.dec.out = o ∧ t.dec.port.status = .done ∧ t.dec.port.fault = .fNone) ∧
    (∀ f, decodeFn s.cfg.outCap bytes = .fail f → t.dec.port.status = .fault ∧ t.dec.port.fault = f)

/-- From R118: while a frame is open, the search buffer and the run together are the most recent bytes of its input: all of them while
there are at most `W`, at least `W` of them after that, and never more than `2*W`. -/
def Obligations.WindowHoldsTheInputTail : Prop :=
  ∀ (w n : Nat) (bytes : List Byte) (s t : State) (out : List Byte), 1 ≤ w → w ≤ s.cfg.wMax → bytes.length < n →
    runCommands .E (.encStart w n :: bytes.map .encPush) s = some (t, out) →
    t.enc.port.status = .busy ∧ t.enc.i = bytes.length ∧ t.enc.sb ++ t.enc.cc <:+ bytes ∧
      min bytes.length w ≤ t.enc.sb.length + t.enc.cc.length ∧ t.enc.sb.length + t.enc.cc.length ≤ 2 * w

/-- R120: the round trip. For every input without the byte `<` and every legal window, encoding a frame and decoding what it
emitted gives the input back, from any state, when the history has room for it. -/
def Obligations.RoundTrip : Prop :=
  ∀ (w : Nat) (bytes : List Byte) (s : State), 1 ≤ w → w ≤ s.cfg.wMax → 0x3C#8 ∉ bytes →
    fitsCap s.cfg.outCap bytes.length = true →
    ∃ t u text, runCommands .E (encodeFrame w bytes) s = some (t, text) ∧
      runCommands .D (decodeFrame text) t = some (u, bytes) ∧ u.dec.port.status = .done

/-- From R123: the encoder never expands its input. Outside the domain of R115 (`W = 0`, a window or an input too large) what
Encode answers is the model's choice of log entry 19. -/
def Obligations.NeverLonger : Prop := ∀ (w : Nat) (bytes : List Byte), (encodeFn w bytes).length ≤ bytes.length

/-- R147: a stream without the byte `<` decodes to itself, when the history has room for it. -/
def Obligations.LiteralPassthrough : Prop :=
  ∀ (cap : Option Nat) (bytes : List Byte), 0x3C#8 ∉ bytes → fitsCap cap bytes.length = true →
    decodeFn cap bytes = .output bytes
end

