-- ==== Sys2Proof/Laws/Config.lean ====
section
/-! SUPPORT. The parameters the hardware was built with are legal, whatever they are. -/

namespace Sys2Proof

theorem Config.build_legal : Config.build.Legal := by
  refine ⟨?_, ?_, ?_, ?_, ?_, ?_⟩ <;> simp [Config.build]
  all_goals omega

end Sys2Proof
end

