-- ==== Sys2Proof/Laws/State.lean ====
section
/-! SUPPORT. What each named update of the state writes and what it leaves: one lemma per field per update. -/

namespace Sys2Proof.Machine

/-! ### The machine -/

@[simp] theorem State.setEnc_cfg (x : Enc) (s : State) : (s.setEnc x).cfg = s.cfg := rfl
@[simp] theorem State.setEnc_enc (x : Enc) (s : State) : (s.setEnc x).enc = x := rfl
@[simp] theorem State.setEnc_dec (x : Enc) (s : State) : (s.setEnc x).dec = s.dec := rfl
@[simp] theorem State.setEnc_loc (x : Enc) (s : State) : (s.setEnc x).loc = s.loc := rfl
@[simp] theorem State.setEnc_cmds (x : Enc) (s : State) : (s.setEnc x).cmds = s.cmds := rfl

@[simp] theorem State.setDec_cfg (x : Dec) (s : State) : (s.setDec x).cfg = s.cfg := rfl
@[simp] theorem State.setDec_enc (x : Dec) (s : State) : (s.setDec x).enc = s.enc := rfl
@[simp] theorem State.setDec_dec (x : Dec) (s : State) : (s.setDec x).dec = x := rfl
@[simp] theorem State.setDec_loc (x : Dec) (s : State) : (s.setDec x).loc = s.loc := rfl
@[simp] theorem State.setDec_cmds (x : Dec) (s : State) : (s.setDec x).cmds = s.cmds := rfl

@[simp] theorem State.setLoc_cfg (x : Locate) (s : State) : (s.setLoc x).cfg = s.cfg := rfl
@[simp] theorem State.setLoc_enc (x : Locate) (s : State) : (s.setLoc x).enc = s.enc := rfl
@[simp] theorem State.setLoc_dec (x : Locate) (s : State) : (s.setLoc x).dec = s.dec := rfl
@[simp] theorem State.setLoc_loc (x : Locate) (s : State) : (s.setLoc x).loc = x := rfl
@[simp] theorem State.setLoc_cmds (x : Locate) (s : State) : (s.setLoc x).cmds = s.cmds := rfl

@[simp] theorem State.setCmds_cfg (x : List HostInput) (s : State) : (s.setCmds x).cfg = s.cfg := rfl
@[simp] theorem State.setCmds_enc (x : List HostInput) (s : State) : (s.setCmds x).enc = s.enc := rfl
@[simp] theorem State.setCmds_dec (x : List HostInput) (s : State) : (s.setCmds x).dec = s.dec := rfl
@[simp] theorem State.setCmds_loc (x : List HostInput) (s : State) : (s.setCmds x).loc = s.loc := rfl
@[simp] theorem State.setCmds_cmds (x : List HostInput) (s : State) : (s.setCmds x).cmds = x := rfl

/-! ### The port of a unit -/

@[simp] theorem Port.emit_status (v : Byte) (p : Port) : (p.emit v).status = p.status := rfl
@[simp] theorem Port.emit_fault (v : Byte) (p : Port) : (p.emit v).fault = p.fault := rfl
@[simp] theorem Port.emit_dout (v : Byte) (p : Port) : (p.emit v).dout = p.dout ++ [v] := rfl

@[simp] theorem Port.emitSeq_status (bs : List Byte) (p : Port) : (p.emitSeq bs).status = p.status := rfl
@[simp] theorem Port.emitSeq_fault (bs : List Byte) (p : Port) : (p.emitSeq bs).fault = p.fault := rfl
@[simp] theorem Port.emitSeq_dout (bs : List Byte) (p : Port) : (p.emitSeq bs).dout = p.dout ++ bs := rfl

@[simp] theorem Port.clearOut_status (p : Port) : p.clearOut.status = p.status := rfl
@[simp] theorem Port.clearOut_fault (p : Port) : p.clearOut.fault = p.fault := rfl
@[simp] theorem Port.clearOut_dout (p : Port) : p.clearOut.dout = [] := rfl

@[simp] theorem Port.raise_status (f : FaultCode) : (Port.raise f).status = .fault := rfl
@[simp] theorem Port.raise_fault (f : FaultCode) : (Port.raise f).fault = f := rfl
@[simp] theorem Port.raise_dout (f : FaultCode) : (Port.raise f).dout = [] := rfl

/-! ### Unit E -/

@[simp] theorem Enc.setPort_port (p : Port) (e : Enc) : (e.setPort p).port = p := rfl
@[simp] theorem Enc.setPort_w (p : Port) (e : Enc) : (e.setPort p).w = e.w := rfl
@[simp] theorem Enc.setPort_n (p : Port) (e : Enc) : (e.setPort p).n = e.n := rfl
@[simp] theorem Enc.setPort_i (p : Port) (e : Enc) : (e.setPort p).i = e.i := rfl
@[simp] theorem Enc.setPort_sb (p : Port) (e : Enc) : (e.setPort p).sb = e.sb := rfl
@[simp] theorem Enc.setPort_cc (p : Port) (e : Enc) : (e.setPort p).cc = e.cc := rfl
@[simp] theorem Enc.setPort_found (p : Port) (e : Enc) : (e.setPort p).found = e.found := rfl
@[simp] theorem Enc.setPort_last (p : Port) (e : Enc) : (e.setPort p).last = e.last := rfl
@[simp] theorem Enc.setPort_absorbed (p : Port) (e : Enc) : (e.setPort p).absorbed = e.absorbed := rfl
@[simp] theorem Enc.setPort_fits (p : Port) (e : Enc) : (e.setPort p).fits = e.fits := rfl

@[simp] theorem Enc.raise_port (f : FaultCode) (e : Enc) : (e.raise f).port = Port.raise f := rfl
@[simp] theorem Enc.raise_w (f : FaultCode) (e : Enc) : (e.raise f).w = e.w := rfl
@[simp] theorem Enc.raise_n (f : FaultCode) (e : Enc) : (e.raise f).n = e.n := rfl
@[simp] theorem Enc.raise_i (f : FaultCode) (e : Enc) : (e.raise f).i = e.i := rfl
@[simp] theorem Enc.raise_sb (f : FaultCode) (e : Enc) : (e.raise f).sb = e.sb := rfl
@[simp] theorem Enc.raise_cc (f : FaultCode) (e : Enc) : (e.raise f).cc = e.cc := rfl
@[simp] theorem Enc.raise_found (f : FaultCode) (e : Enc) : (e.raise f).found = e.found := rfl
@[simp] theorem Enc.raise_last (f : FaultCode) (e : Enc) : (e.raise f).last = e.last := rfl
@[simp] theorem Enc.raise_absorbed (f : FaultCode) (e : Enc) : (e.raise f).absorbed = e.absorbed := rfl
@[simp] theorem Enc.raise_fits (f : FaultCode) (e : Enc) : (e.raise f).fits = e.fits := rfl

@[simp] theorem Enc.extTest_port (b : Byte) (e : Enc) : (e.extTest b).port = e.port := rfl
@[simp] theorem Enc.extTest_w (b : Byte) (e : Enc) : (e.extTest b).w = e.w := rfl
@[simp] theorem Enc.extTest_n (b : Byte) (e : Enc) : (e.extTest b).n = e.n := rfl
@[simp] theorem Enc.extTest_i (b : Byte) (e : Enc) : (e.extTest b).i = e.i := rfl
@[simp] theorem Enc.extTest_sb (b : Byte) (e : Enc) : (e.extTest b).sb = e.sb := rfl
@[simp] theorem Enc.extTest_cc (b : Byte) (e : Enc) : (e.extTest b).cc = e.cc := rfl
@[simp] theorem Enc.extTest_found (b : Byte) (e : Enc) : (e.extTest b).found = foundBit b e := rfl
@[simp] theorem Enc.extTest_last (b : Byte) (e : Enc) : (e.extTest b).last = e.last := rfl
@[simp] theorem Enc.extTest_absorbed (b : Byte) (e : Enc) : (e.extTest b).absorbed = e.absorbed := rfl
@[simp] theorem Enc.extTest_fits (b : Byte) (e : Enc) : (e.extTest b).fits = e.fits := rfl

@[simp] theorem Enc.setLast_port (e : Enc) : e.setLast.port = e.port := rfl
@[simp] theorem Enc.setLast_w (e : Enc) : e.setLast.w = e.w := rfl
@[simp] theorem Enc.setLast_n (e : Enc) : e.setLast.n = e.n := rfl
@[simp] theorem Enc.setLast_i (e : Enc) : e.setLast.i = e.i := rfl
@[simp] theorem Enc.setLast_sb (e : Enc) : e.setLast.sb = e.sb := rfl
@[simp] theorem Enc.setLast_cc (e : Enc) : e.setLast.cc = e.cc := rfl
@[simp] theorem Enc.setLast_found (e : Enc) : e.setLast.found = e.found := rfl
@[simp] theorem Enc.setLast_last (e : Enc) : e.setLast.last = lastBit e := rfl
@[simp] theorem Enc.setLast_absorbed (e : Enc) : e.setLast.absorbed = false := rfl
@[simp] theorem Enc.setLast_fits (e : Enc) : e.setLast.fits = e.fits := rfl

@[simp] theorem Enc.absorb_port (b : Byte) (e : Enc) : (e.absorb b).port = e.port := rfl
@[simp] theorem Enc.absorb_w (b : Byte) (e : Enc) : (e.absorb b).w = e.w := rfl
@[simp] theorem Enc.absorb_n (b : Byte) (e : Enc) : (e.absorb b).n = e.n := rfl
@[simp] theorem Enc.absorb_i (b : Byte) (e : Enc) : (e.absorb b).i = e.i := rfl
@[simp] theorem Enc.absorb_sb (b : Byte) (e : Enc) : (e.absorb b).sb = e.sb := rfl
@[simp] theorem Enc.absorb_cc (b : Byte) (e : Enc) : (e.absorb b).cc = e.cc ++ [b] := rfl
@[simp] theorem Enc.absorb_found (b : Byte) (e : Enc) : (e.absorb b).found = e.found := rfl
@[simp] theorem Enc.absorb_last (b : Byte) (e : Enc) : (e.absorb b).last = e.last := rfl
@[simp] theorem Enc.absorb_absorbed (b : Byte) (e : Enc) : (e.absorb b).absorbed = true := rfl
@[simp] theorem Enc.absorb_fits (b : Byte) (e : Enc) : (e.absorb b).fits = e.fits := rfl

@[simp] theorem Enc.retireRun_port (e : Enc) : e.retireRun.port = e.port := rfl
@[simp] theorem Enc.retireRun_w (e : Enc) : e.retireRun.w = e.w := rfl
@[simp] theorem Enc.retireRun_n (e : Enc) : e.retireRun.n = e.n := rfl
@[simp] theorem Enc.retireRun_i (e : Enc) : e.retireRun.i = e.i := rfl
@[simp] theorem Enc.retireRun_sb (e : Enc) : e.retireRun.sb = e.sb ++ e.cc := rfl
@[simp] theorem Enc.retireRun_cc (e : Enc) : e.retireRun.cc = [] := rfl
@[simp] theorem Enc.retireRun_found (e : Enc) : e.retireRun.found = e.found := rfl
@[simp] theorem Enc.retireRun_last (e : Enc) : e.retireRun.last = e.last := rfl
@[simp] theorem Enc.retireRun_absorbed (e : Enc) : e.retireRun.absorbed = e.absorbed := rfl
@[simp] theorem Enc.retireRun_fits (e : Enc) : e.retireRun.fits = e.fits := rfl

@[simp] theorem Enc.emitRun_port (e : Enc) : e.emitRun.port = e.port.emitSeq e.cc := rfl
@[simp] theorem Enc.emitRun_w (e : Enc) : e.emitRun.w = e.w := rfl
@[simp] theorem Enc.emitRun_n (e : Enc) : e.emitRun.n = e.n := rfl
@[simp] theorem Enc.emitRun_i (e : Enc) : e.emitRun.i = e.i := rfl
@[simp] theorem Enc.emitRun_sb (e : Enc) : e.emitRun.sb = e.sb := rfl
@[simp] theorem Enc.emitRun_cc (e : Enc) : e.emitRun.cc = e.cc := rfl
@[simp] theorem Enc.emitRun_found (e : Enc) : e.emitRun.found = e.found := rfl
@[simp] theorem Enc.emitRun_last (e : Enc) : e.emitRun.last = e.last := rfl
@[simp] theorem Enc.emitRun_absorbed (e : Enc) : e.emitRun.absorbed = e.absorbed := rfl
@[simp] theorem Enc.emitRun_fits (e : Enc) : e.emitRun.fits = e.fits := rfl

@[simp] theorem Enc.flushShort_port (e : Enc) : e.flushShort.port = e.port.emitSeq e.cc := rfl
@[simp] theorem Enc.flushShort_w (e : Enc) : e.flushShort.w = e.w := rfl
@[simp] theorem Enc.flushShort_n (e : Enc) : e.flushShort.n = e.n := rfl
@[simp] theorem Enc.flushShort_i (e : Enc) : e.flushShort.i = e.i := rfl
@[simp] theorem Enc.flushShort_sb (e : Enc) : e.flushShort.sb = e.sb ++ e.cc := rfl
@[simp] theorem Enc.flushShort_cc (e : Enc) : e.flushShort.cc = [] := rfl
@[simp] theorem Enc.flushShort_found (e : Enc) : e.flushShort.found = e.found := rfl
@[simp] theorem Enc.flushShort_last (e : Enc) : e.flushShort.last = e.last := rfl
@[simp] theorem Enc.flushShort_absorbed (e : Enc) : e.flushShort.absorbed = e.absorbed := rfl
@[simp] theorem Enc.flushShort_fits (e : Enc) : e.flushShort.fits = e.fits := rfl

@[simp] theorem Enc.appendByte_port (b : Byte) (e : Enc) : (e.appendByte b).port = e.port := rfl
@[simp] theorem Enc.appendByte_w (b : Byte) (e : Enc) : (e.appendByte b).w = e.w := rfl
@[simp] theorem Enc.appendByte_n (b : Byte) (e : Enc) : (e.appendByte b).n = e.n := rfl
@[simp] theorem Enc.appendByte_i (b : Byte) (e : Enc) : (e.appendByte b).i = e.i := rfl
@[simp] theorem Enc.appendByte_sb (b : Byte) (e : Enc) : (e.appendByte b).sb = e.sb := rfl
@[simp] theorem Enc.appendByte_cc (b : Byte) (e : Enc) : (e.appendByte b).cc = e.cc ++ [b] := rfl
@[simp] theorem Enc.appendByte_found (b : Byte) (e : Enc) : (e.appendByte b).found = e.found := rfl
@[simp] theorem Enc.appendByte_last (b : Byte) (e : Enc) : (e.appendByte b).last = e.last := rfl
@[simp] theorem Enc.appendByte_absorbed (b : Byte) (e : Enc) : (e.appendByte b).absorbed = e.absorbed := rfl
@[simp] theorem Enc.appendByte_fits (b : Byte) (e : Enc) : (e.appendByte b).fits = e.fits := rfl

@[simp] theorem Enc.drain_port (e : Enc) : e.drain.port = e.port.emitSeq e.cc := rfl
@[simp] theorem Enc.drain_w (e : Enc) : e.drain.w = e.w := rfl
@[simp] theorem Enc.drain_n (e : Enc) : e.drain.n = e.n := rfl
@[simp] theorem Enc.drain_i (e : Enc) : e.drain.i = e.i := rfl
@[simp] theorem Enc.drain_sb (e : Enc) : e.drain.sb = e.sb := rfl
@[simp] theorem Enc.drain_cc (e : Enc) : e.drain.cc = [] := rfl
@[simp] theorem Enc.drain_found (e : Enc) : e.drain.found = e.found := rfl
@[simp] theorem Enc.drain_last (e : Enc) : e.drain.last = e.last := rfl
@[simp] theorem Enc.drain_absorbed (e : Enc) : e.drain.absorbed = e.absorbed := rfl
@[simp] theorem Enc.drain_fits (e : Enc) : e.drain.fits = e.fits := rfl

@[simp] theorem Enc.killBits_port (e : Enc) : e.killBits.port = e.port := rfl
@[simp] theorem Enc.killBits_w (e : Enc) : e.killBits.w = e.w := rfl
@[simp] theorem Enc.killBits_n (e : Enc) : e.killBits.n = e.n := rfl
@[simp] theorem Enc.killBits_i (e : Enc) : e.killBits.i = e.i := rfl
@[simp] theorem Enc.killBits_sb (e : Enc) : e.killBits.sb = e.sb := rfl
@[simp] theorem Enc.killBits_cc (e : Enc) : e.killBits.cc = e.cc := rfl
@[simp] theorem Enc.killBits_found (e : Enc) : e.killBits.found = false := rfl
@[simp] theorem Enc.killBits_last (e : Enc) : e.killBits.last = false := rfl
@[simp] theorem Enc.killBits_absorbed (e : Enc) : e.killBits.absorbed = false := rfl
@[simp] theorem Enc.killBits_fits (e : Enc) : e.killBits.fits = false := rfl

/-! ### Unit D -/

@[simp] theorem Dec.setPort_port (p : Port) (d : Dec) : (d.setPort p).port = p := rfl
@[simp] theorem Dec.setPort_n (p : Port) (d : Dec) : (d.setPort p).n = d.n := rfl
@[simp] theorem Dec.setPort_i (p : Port) (d : Dec) : (d.setPort p).i = d.i := rfl
@[simp] theorem Dec.setPort_state (p : Port) (d : Dec) : (d.setPort p).state = d.state := rfl
@[simp] theorem Dec.setPort_ob (p : Port) (d : Dec) : (d.setPort p).ob = d.ob := rfl
@[simp] theorem Dec.setPort_lb (p : Port) (d : Dec) : (d.setPort p).lb = d.lb := rfl
@[simp] theorem Dec.setPort_out (p : Port) (d : Dec) : (d.setPort p).out = d.out := rfl

@[simp] theorem Dec.raise_port (f : FaultCode) (d : Dec) : (d.raise f).port = Port.raise f := rfl
@[simp] theorem Dec.raise_n (f : FaultCode) (d : Dec) : (d.raise f).n = d.n := rfl
@[simp] theorem Dec.raise_i (f : FaultCode) (d : Dec) : (d.raise f).i = d.i := rfl
@[simp] theorem Dec.raise_state (f : FaultCode) (d : Dec) : (d.raise f).state = d.state := rfl
@[simp] theorem Dec.raise_ob (f : FaultCode) (d : Dec) : (d.raise f).ob = d.ob := rfl
@[simp] theorem Dec.raise_lb (f : FaultCode) (d : Dec) : (d.raise f).lb = d.lb := rfl
@[simp] theorem Dec.raise_out (f : FaultCode) (d : Dec) : (d.raise f).out = d.out := rfl

@[simp] theorem Dec.produce_port (v : Byte) (d : Dec) : (d.produce v).port = d.port.emit v := rfl
@[simp] theorem Dec.produce_n (v : Byte) (d : Dec) : (d.produce v).n = d.n := rfl
@[simp] theorem Dec.produce_i (v : Byte) (d : Dec) : (d.produce v).i = d.i := rfl
@[simp] theorem Dec.produce_state (v : Byte) (d : Dec) : (d.produce v).state = d.state := rfl
@[simp] theorem Dec.produce_ob (v : Byte) (d : Dec) : (d.produce v).ob = d.ob := rfl
@[simp] theorem Dec.produce_lb (v : Byte) (d : Dec) : (d.produce v).lb = d.lb := rfl
@[simp] theorem Dec.produce_out (v : Byte) (d : Dec) : (d.produce v).out = d.out ++ [v] := rfl

@[simp] theorem Dec.tokOpen_port (d : Dec) : d.tokOpen.port = d.port := rfl
@[simp] theorem Dec.tokOpen_n (d : Dec) : d.tokOpen.n = d.n := rfl
@[simp] theorem Dec.tokOpen_i (d : Dec) : d.tokOpen.i = d.i := rfl
@[simp] theorem Dec.tokOpen_state (d : Dec) : d.tokOpen.state = .offset := rfl
@[simp] theorem Dec.tokOpen_ob (d : Dec) : d.tokOpen.ob = [] := rfl
@[simp] theorem Dec.tokOpen_lb (d : Dec) : d.tokOpen.lb = [] := rfl
@[simp] theorem Dec.tokOpen_out (d : Dec) : d.tokOpen.out = d.out := rfl

@[simp] theorem Dec.tokSep_port (d : Dec) : d.tokSep.port = d.port := rfl
@[simp] theorem Dec.tokSep_n (d : Dec) : d.tokSep.n = d.n := rfl
@[simp] theorem Dec.tokSep_i (d : Dec) : d.tokSep.i = d.i := rfl
@[simp] theorem Dec.tokSep_state (d : Dec) : d.tokSep.state = .length := rfl
@[simp] theorem Dec.tokSep_ob (d : Dec) : d.tokSep.ob = d.ob := rfl
@[simp] theorem Dec.tokSep_lb (d : Dec) : d.tokSep.lb = d.lb := rfl
@[simp] theorem Dec.tokSep_out (d : Dec) : d.tokSep.out = d.out := rfl

@[simp] theorem Dec.endOfInput_port (d : Dec) : d.endOfInput.port = { d.port with status := .done } := rfl
@[simp] theorem Dec.endOfInput_n (d : Dec) : d.endOfInput.n = d.n := rfl
@[simp] theorem Dec.endOfInput_i (d : Dec) : d.endOfInput.i = d.i := rfl
@[simp] theorem Dec.endOfInput_state (d : Dec) : d.endOfInput.state = d.state := rfl
@[simp] theorem Dec.endOfInput_ob (d : Dec) : d.endOfInput.ob = [] := rfl
@[simp] theorem Dec.endOfInput_lb (d : Dec) : d.endOfInput.lb = [] := rfl
@[simp] theorem Dec.endOfInput_out (d : Dec) : d.endOfInput.out = d.out := rfl

end Sys2Proof.Machine
end

