-- ==== Sys2Proof/Laws/Ops.lean ====
section
/-! SUPPORT. One lemma per shared operation that says everything it can do, for proofs to cite in place of unfolding it. -/

namespace Sys2Proof.Machine

/-! ### Commands always answer -/

/-- Every row but M.LOCATE on the empty needle answers a next state. -/
theorem exec_next_or_empty (i : Instr) (s : State) :
    (∃ t, exec i s = .next t) ∨ (∃ hay, i = .mLocate [] hay ∧ exec i s = .refused .emptyNeedle) := by
  cases i with
  | mLocate needle hay =>
    by_cases h : needle = []
    · subst h; exact .inr ⟨hay, rfl, rfl⟩
    · exact .inl ⟨s.setLoc (locate needle hay), if_neg h⟩
  | tokSep => by_cases h : s.dec.state = .outside <;> simp [exec, execTokSep, h]
  | tokClose => by_cases h : s.dec.state = .outside <;> simp [exec, execTokClose, h]
  | tokChar b => exact .inl (by simp only [exec, execTokChar]; split <;> exact ⟨_, rfl⟩)
  | lit b => exact .inl (by simp only [exec, execLit]; split <;> exact ⟨_, rfl⟩)
  | _ => exact .inl ⟨_, rfl⟩

/-! ### What a command word stands for -/

/-- Every word stands for a well-formed host command, at every width (30_encoding R61, R62, R63). -/
theorem decodeCmd_command_wellFormed (k : Nat) (w : BitVec (2 * k + 3)) :
    (decodeCmd k w).isCommand = true ∧ (decodeCmd k w).wellFormed k = true := by
  have ha : cmdA k w < 2 ^ k := BitVec.isLt _
  have hb : cmdB k w < 2 ^ k := BitVec.isLt _
  have hc : (cmdByte k w).toNat < 2 ^ k := by
    rw [cmdByte, BitVec.toNat_ofNat]
    exact lt_of_le_of_lt (Nat.mod_le _ _) hb
  unfold decodeCmd
  split <;> simp [Instr.isCommand, Instr.wellFormed, ha, hb, hc]

/-! ### The flow of unit D -/

@[simp] theorem DecFlow.state_go (d : Dec) : (DecFlow.go d).state = d := rfl

@[simp] theorem DecFlow.state_stop (d : Dec) : (DecFlow.stop d).state = d := rfl

@[simp] theorem DecFlow.go_andThen (d : Dec) (f : Dec → DecFlow) : (DecFlow.go d).andThen f = f d := rfl

@[simp] theorem DecFlow.stop_andThen (d : Dec) (f : Dec → DecFlow) : (DecFlow.stop d).andThen f = .stop d := rfl

/-! ### The capacity -/

@[simp] theorem fitsCap_none (len : Nat) : fitsCap none len = true := rfl

@[simp] theorem fitsCap_some (c len : Nat) : fitsCap (some c) len = decide (len ≤ c) := rfl

/-- A shorter history fits where a longer one does. -/
theorem fitsCap_mono {cap : Option Nat} {m n : Nat} (h : m ≤ n) (hn : fitsCap cap n = true) : fitsCap cap m = true := by
  cases cap with
  | none => rfl
  | some c => simp only [fitsCap_some, decide_eq_true_eq] at *; omega

/-! ### The matcher -/

@[simp] theorem scan_nil (needle : List Byte) (j c : Nat) : scan needle [] j c = .nf := rfl

/-- One compare of the scan (40_matcher R91). -/
theorem scan_cons (needle : List Byte) (v : Byte) (hay : List Byte) (j c : Nat) :
    scan needle (v :: hay) j c =
      if needle[c]? = some v then
        if c + 1 = needle.length then .found (j + 1 - needle.length) else scan needle hay (j + 1) (c + 1)
      else scan needle hay (j + 1) 0 := rfl

theorem Locate.isFound_iff (r : Locate) : r.isFound = true ↔ ∃ k, r = .found k := by
  cases r <;> simp [Locate.isFound]

@[simp] theorem Locate.shift_nf (k : Nat) : Locate.nf.shift k = .nf := rfl

@[simp] theorem Locate.shift_found (k r : Nat) : (Locate.found r).shift k = .found (k + r) := rfl

/-! ### The encoder -/

/-- E.EVICT drops at most the oldest byte, and only above the window (41_encoder R112). -/
theorem Enc.evict_eq (e : Enc) : e.evict = { e with sb := trim e.w e.sb } := by
  unfold Enc.evict trim dropFront
  split <;> rfl

/-- What E.FLUSH_RUN leaves: the run retired, the text of the flush emitted, `fits` perhaps written (41_encoder R107). -/
theorem Enc.flushRun_eq (e : Enc) (h : e.cc.length > 1) :
    ∃ f, e.flushRun = { e with sb := e.sb ++ e.cc, cc := [], port := e.port.emitSeq (flushText e.cc e.sb), fits := f } := by
  cases hl : locate e.cc e.sb with
  | nf => exact ⟨e.fits, by simp [Enc.flushRun, flushText, Enc.emitRun, Enc.retireRun, appendSeq, hl]⟩
  | found r =>
    by_cases ht : toklen (e.sb.length - r) e.cc.length ≤ e.cc.length
    · refine ⟨true, ?_⟩
      simp [Enc.flushRun, flushText, Enc.emitTokenOrRun, fitsBit, Enc.retireRun, appendSeq, hl, ht, h, Nat.not_lt.mpr ht]
    · refine ⟨false, ?_⟩
      simp [Enc.flushRun, flushText, Enc.emitTokenOrRun, fitsBit, Enc.emitRun, Enc.retireRun, appendSeq, hl, ht,
        Nat.lt_of_not_le ht]

/-- What either flush leaves, for a run of any length (41_encoder R107, R110). -/
theorem Enc.flush_eq (e : Enc) :
    ∃ f, (if e.cc.length > 1 then e.flushRun else e.flushShort) =
      { e with sb := e.sb ++ e.cc, cc := [], port := e.port.emitSeq (flushText e.cc e.sb), fits := f } := by
  by_cases h : e.cc.length > 1
  · simpa only [if_pos h] using e.flushRun_eq h
  · refine ⟨e.fits, ?_⟩
    simp [Enc.flushShort, Enc.emitRun, Enc.retireRun, appendSeq, flushText, h]

/-- What the lines under the flush condition leave (41_encoder R104, R106, R107, R110): nothing when no flush is triggered;
else the run, with the last byte when it is absorbed, retired and its text emitted, `fits` perhaps written. -/
theorem Enc.flushStep_eq (b : Byte) (e : Enc) :
    ∃ f, e.flushStep b =
      if e.flushTriggered then
        if e.absorbTriggered then
          { e with sb := e.sb ++ (e.cc ++ [b]), cc := [], absorbed := true,
                   port := e.port.emitSeq (flushText (e.cc ++ [b]) e.sb), fits := f }
        else { e with sb := e.sb ++ e.cc, cc := [], port := e.port.emitSeq (flushText e.cc e.sb), fits := f }
      else e := by
  by_cases hf : e.flushTriggered = true
  · by_cases ha : e.absorbTriggered = true
    · obtain ⟨f, h⟩ := (e.absorb b).flush_eq
      exact ⟨f, by simp only [Enc.flushStep, hf, ha, if_true]; exact h⟩
    · obtain ⟨f, h⟩ := e.flush_eq
      exact ⟨f, by simp only [Enc.flushStep, hf, ha, if_true]; exact h⟩
  · exact ⟨e.fits, by simp only [Enc.flushStep, hf]; rfl⟩

/-! ### The decoder -/

/-- The loop of D.COPY appends and emits a stretch of the history that stood before it (20_memory R51, 42_decoder R145). -/
theorem Dec.copyLoop_eq (cnt : Nat) : ∀ (s : Nat) (d : Dec), s + cnt ≤ d.out.length →
    Dec.copyLoop s cnt d =
      { d with out := d.out ++ (d.out.drop s).take cnt, port := d.port.emitSeq ((d.out.drop s).take cnt) } := by
  induction cnt with
  | zero => intro s d _; simp [Dec.copyLoop, Port.emitSeq]
  | succ cnt ih =>
    intro s d h
    have hs : s < d.out.length := by omega
    have hget : memRead d.out s = some d.out[s] := by simp [memRead, hs]
    have htake : (d.out.drop s).take (cnt + 1) = d.out[s] :: (d.out.drop (s + 1)).take cnt := by
      rw [List.drop_eq_getElem_cons hs, List.take_succ_cons]
    have hdrop : ((d.out ++ [d.out[s]]).drop (s + 1)).take cnt = (d.out.drop (s + 1)).take cnt := by
      rw [List.drop_append_of_le_length (by omega), List.take_append_of_le_length (by simp; omega)]
    rw [Dec.copyLoop, hget]
    simp only
    rw [ih (s + 1) (d.produce d.out[s]) (by simp; omega), htake]
    simp [hdrop, Dec.produce, append, Port.emitSeq, Port.emit]

end Sys2Proof.Machine
end

