-- ==== Sys2Proof/Laws/PerInstr.lean ====
section
/-! SUPPORT. The family UnitBit: a row has a command word only if it is of format CMD, and the bit `op[2]` of that word
names the row's unit (30_encoding R60). -/

namespace Sys2Proof.Laws.UnitBit

/-- If the instruction has a command word, it is a host command of unit E or D, and `op[2]` is 1 exactly for D. -/
def Statement (i : Instr) : Prop :=
  ∀ k w, encodeCmd k i = some w → i.isCommand = true ∧ i.unit ≠ .M ∧ (w.getLsbD (2 * k + 2) = true ↔ i.unit = .D)

/-- The bit `op[2]` of a word whose fields are in range. -/
theorem cmdWord_unit_bit {k op a b : Nat} (ho : op < 8) (ha : a < 2 ^ k) (hb : b < 2 ^ k) :
    (cmdWord k op a b).getLsbD (2 * k + 2) = decide (4 ≤ op) := by
  have hab : a * 2 ^ k + b < 2 ^ (2 * k) := by
    have : (a + 1) * 2 ^ k ≤ 2 ^ k * 2 ^ k := Nat.mul_le_mul_right _ ha
    rw [Nat.two_mul, pow_add]; linarith
  have hsplit : op * 2 ^ (2 * k) + a * 2 ^ k + b = 2 ^ (2 * k) * op + (a * 2 ^ k + b) := by ring
  rw [cmdWord, BitVec.getLsbD_ofNat, hsplit, Nat.testBit_two_pow_mul_add _ hab]
  have : 2 * k + 2 < 2 * k + 3 := by omega
  have : ¬ 2 * k + 2 < 2 * k := by omega
  simp only [*, if_false, decide_true, Bool.true_and, Nat.add_sub_cancel_left]
  interval_cases op <;> rfl

/-- A well-formed command answers through its word; every other instruction has none. -/
theorem of_word {i : Instr} {op : Nat} (ho : op < 8) (hc : i.isCommand = true) (hM : i.unit ≠ .M)
    (hD : decide (4 ≤ op) = true ↔ i.unit = .D)
    (h : ∀ k w, encodeCmd k i = some w → ∃ a b, a < 2 ^ k ∧ b < 2 ^ k ∧ w = cmdWord k op a b) : Statement i := by
  intro k w hw
  obtain ⟨a, b, ha, hb, rfl⟩ := h k w hw
  exact ⟨hc, hM, by rw [cmdWord_unit_bit ho ha hb, hD]⟩

/-- An instruction with no command word meets the statement. -/
theorem of_none {i : Instr} (h : ∀ k, encodeCmd k i = none) : Statement i := fun k w hw => by simp [h k] at hw

theorem encStart (w n : Nat) : Statement (.encStart w n) := by
  refine of_word (op := 1) (by decide) rfl (by simp [Instr.unit]) (by simp [Instr.unit]) fun k v hv => ?_
  simp only [encodeCmd, Instr.wellFormed, Bool.and_eq_true, decide_eq_true_eq, Option.ite_none_right_eq_some, Option.some.injEq] at hv
  exact ⟨w, n, hv.1.1, hv.1.2, hv.2.symm⟩

theorem encPush (b : Byte) : Statement (.encPush b) := by
  refine of_word (op := 2) (by decide) rfl (by simp [Instr.unit]) (by simp [Instr.unit]) fun k v hv => ?_
  simp only [encodeCmd, Instr.wellFormed, decide_eq_true_eq, Option.ite_none_right_eq_some, Option.some.injEq] at hv
  exact ⟨0, b.toNat, Nat.two_pow_pos k, hv.1, hv.2.symm⟩

theorem decStart (n : Nat) : Statement (.decStart n) := by
  refine of_word (op := 5) (by decide) rfl (by simp [Instr.unit]) (by simp [Instr.unit]) fun k v hv => ?_
  simp only [encodeCmd, Instr.wellFormed, decide_eq_true_eq, Option.ite_none_right_eq_some, Option.some.injEq] at hv
  exact ⟨0, n, Nat.two_pow_pos k, hv.1, hv.2.symm⟩

theorem decPush (b : Byte) : Statement (.decPush b) := by
  refine of_word (op := 6) (by decide) rfl (by simp [Instr.unit]) (by simp [Instr.unit]) fun k v hv => ?_
  simp only [encodeCmd, Instr.wellFormed, decide_eq_true_eq, Option.ite_none_right_eq_some, Option.some.injEq] at hv
  exact ⟨0, b.toNat, Nat.two_pow_pos k, hv.1, hv.2.symm⟩

theorem reserved000 : Statement .reserved000 := by
  refine of_word (op := 0) (by decide) rfl (by simp [Instr.unit]) (by simp [Instr.unit]) fun k v hv => ?_
  simp only [encodeCmd, Instr.wellFormed, if_true, Option.some.injEq] at hv
  exact ⟨0, 0, Nat.two_pow_pos k, Nat.two_pow_pos k, hv.symm⟩

theorem reserved011 : Statement .reserved011 := by
  refine of_word (op := 3) (by decide) rfl (by simp [Instr.unit]) (by simp [Instr.unit]) fun k v hv => ?_
  simp only [encodeCmd, Instr.wellFormed, if_true, Option.some.injEq] at hv
  exact ⟨0, 0, Nat.two_pow_pos k, Nat.two_pow_pos k, hv.symm⟩

theorem reserved100 : Statement .reserved100 := by
  refine of_word (op := 4) (by decide) rfl (by simp [Instr.unit]) (by simp [Instr.unit]) fun k v hv => ?_
  simp only [encodeCmd, Instr.wellFormed, if_true, Option.some.injEq] at hv
  exact ⟨0, 0, Nat.two_pow_pos k, Nat.two_pow_pos k, hv.symm⟩

theorem reserved111 : Statement .reserved111 := by
  refine of_word (op := 7) (by decide) rfl (by simp [Instr.unit]) (by simp [Instr.unit]) fun k v hv => ?_
  simp only [encodeCmd, Instr.wellFormed, if_true, Option.some.injEq] at hv
  exact ⟨0, 0, Nat.two_pow_pos k, Nat.two_pow_pos k, hv.symm⟩

theorem tokOpen : Statement .tokOpen := of_none fun _ => by simp [encodeCmd]

theorem tokSep : Statement .tokSep := of_none fun _ => by simp [encodeCmd]

theorem tokClose : Statement .tokClose := of_none fun _ => by simp [encodeCmd]

theorem tokChar (b : Byte) : Statement (.tokChar b) := of_none fun _ => by simp [encodeCmd]

theorem lit (b : Byte) : Statement (.lit b) := of_none fun _ => by simp [encodeCmd]

theorem copy (o l : Nat) : Statement (.copy o l) := of_none fun _ => by simp [encodeCmd]

theorem mLocate (needle hay : List Byte) : Statement (.mLocate needle hay) := of_none fun _ => by simp [encodeCmd]

theorem eExtTest (b : Byte) : Statement (.eExtTest b) := of_none fun _ => by simp [encodeCmd]

theorem eAbsorb (b : Byte) : Statement (.eAbsorb b) := of_none fun _ => by simp [encodeCmd]

theorem eFlushRun : Statement .eFlushRun := of_none fun _ => by simp [encodeCmd]

theorem eFlushShort : Statement .eFlushShort := of_none fun _ => by simp [encodeCmd]

theorem eAppend (b : Byte) : Statement (.eAppend b) := of_none fun _ => by simp [encodeCmd]

theorem eEvict : Statement .eEvict := of_none fun _ => by simp [encodeCmd]

theorem eDrain : Statement .eDrain := of_none fun _ => by simp [encodeCmd]

theorem dCopy (o l : Nat) : Statement (.dCopy o l) := of_none fun _ => by simp [encodeCmd]

theorem dEndOfInput : Statement .dEndOfInput := of_none fun _ => by simp [encodeCmd]

end Sys2Proof.Laws.UnitBit
end

