-- ==== Sys2Proof/Tests/Slice0.lean ====
section
/-! SUPPORT. The model's own tests: the checks of WellFormed, words written out from the encodings of 30_encoding, one-step
tests whose results are the spec's own (95_test_vectors and the worked examples), and for every obligation that has
hypotheses a concrete state and operands that meet them. -/

namespace Sys2Proof.Machine

/-! ### Helpers -/

/-- The bytes of ASCII characters (00_scope R6). -/
def Test.str (cs : List Char) : List Byte := cs.map fun c => BitVec.ofNat 8 c.toNat

/-- A machine with `IDX_W = 32`, `W_MAX = 16` and no bound on the history. -/
def Test.cfg : Config := { idxW := 32, wMax := 16, sbCap := 33, ccCap := 16, outCap := none, numSat := 0 }

/-- The same with `OUT_CAP = 4`. -/
def Test.cfg4 : Config := { Test.cfg with outCap := some 4, numSat := 4 }

/-- An encoder in an open frame. -/
def Test.encoder (w n i : Nat) (sb cc : List Byte) : State :=
  { State.resetWith Test.cfg with
    enc := { Enc.reset with port := { status := .busy, fault := .fNone, dout := [] }, w := w, n := n, i := i, sb := sb, cc := cc } }

/-- An encoder inside an ENC_PUSH, with its condition bits. -/
def Test.bits (found last absorbed : Bool) (s : State) : State :=
  { s with enc := { s.enc with found := found, last := last, absorbed := absorbed } }

/-- A decoder in an open frame that has taken five of its nine bytes. -/
def Test.decoder (c : Config) (st : ParserState) (ob lb out : List Byte) : State :=
  { State.resetWith c with
    dec := { port := { status := .busy, fault := .fNone, dout := [] }, n := 9, i := 5, state := st, ob := ob, lb := lb, out := out } }

/-- Both units in a status. -/
def Test.inStatus (st : Status) (f : FaultCode) : State :=
  { State.resetWith Test.cfg with
    enc := { Enc.reset with port := { status := st, fault := f, dout := [] } },
    dec := { Dec.reset with port := { status := st, fault := f, dout := [] } } }

/-- The next state, if there is one. -/
def Test.next : Host.Outcome State Fault Refusal → Option State
  | .next s => some s
  | .fault _ => none
  | .refused _ => none

/-- Unit E after a row. -/
def Test.encAfter (i : Instr) (s : State) : Option Enc := (Test.next (exec i s)).map State.enc

/-- Unit D after a row. -/
def Test.decAfter (i : Instr) (s : State) : Option Dec := (Test.next (exec i s)).map State.dec

/-- The three parts of a response (10_state R35). -/
def Test.resp (u : UnitId) (i : Instr) (s : State) : Option Port := (Test.next (exec i s)).bind (State.response u)

/-- The parts of unit E's invariant as one decidable proposition. -/
abbrev Test.EncChecks (c : Config) (e : Enc) : Prop :=
  e.port.Consistent ∧ (e.port.fault ≠ .fParse ∧ e.port.fault ≠ .fCapacity) ∧ e.BitsDead ∧ e.Bounded ∧ e.InRange c ∧ e.StatusInv c

/-- The parts of unit D's invariant, but the digit buffers, as one decidable proposition. -/
abbrev Test.DecChecks (c : Config) (d : Dec) : Prop :=
  d.port.Consistent ∧ d.port.fault ≠ .fInvalidArg ∧ (d.i ≤ d.n ∧ d.n < 2 ^ c.idxW) ∧
  fitsCap c.outCap d.out.length = true ∧ d.StatusInv

theorem Test.inv_of {s : State} (l : s.cfg.Legal) (e : Test.EncChecks s.cfg s.enc) (p : s.dec.ParserInv)
    (d : Test.DecChecks s.cfg s.dec) (m : s.loc = .nf) : s.Inv :=
  ⟨l, ⟨e.1, e.2.1, e.2.2.1, e.2.2.2.1, e.2.2.2.2.1, e.2.2.2.2.2⟩, ⟨d.1, d.2.1, p, d.2.2.1, d.2.2.2.1, d.2.2.2.2⟩, m⟩

open Test

/-! ### WellFormed refuses an ill-formed term for each of its checks -/

theorem test_wf_encStart_window : (Instr.encStart (2 ^ 32) 0).wellFormed 32 = false := by decide
theorem test_wf_encStart_length : (Instr.encStart 1 (2 ^ 32)).wellFormed 32 = false := by decide
theorem test_wf_encPush_byte : (Instr.encPush 0x80#8).wellFormed 7 = false := by decide
theorem test_wf_decStart_length : (Instr.decStart (2 ^ 32)).wellFormed 32 = false := by decide
theorem test_wf_decPush_byte : (Instr.decPush 0x80#8).wellFormed 7 = false := by decide
theorem test_wf_tokChar_open : (Instr.tokChar 0x3C#8).wellFormed 32 = false := by decide
theorem test_wf_tokChar_sep : (Instr.tokChar 0x2C#8).wellFormed 32 = false := by decide
theorem test_wf_tokChar_close : (Instr.tokChar 0x3E#8).wellFormed 32 = false := by decide
theorem test_wf_lit_open : (Instr.lit 0x3C#8).wellFormed 32 = false := by decide
theorem test_wf_mLocate_empty : (Instr.mLocate [] [0x41#8]).wellFormed 32 = false := by decide

/-! ### Decoding: words written out from 30_encoding R60, R61, R63 -/

/-- PR2's first word, `001 : 00001000 : 0000000D`. -/
theorem test_decode_encStart : decodeCmd 32 0x1000010000000000D#67 = .encStart 4096 13 := by decide
/-- PR2, `010 : 00000000 : 00000041`; and the ignored bits at one (R61). -/
theorem test_decode_encPush :
    decodeCmd 32 0x20000000000000041#67 = .encPush 0x41#8 ∧ decodeCmd 32 0x2FFFFFFFFFFFFFF41#67 = .encPush 0x41#8 := by decide
/-- PR1's first word, `101 : 00000000 : 0000000C`; and with its ignored field `A` at one. -/
theorem test_decode_decStart :
    decodeCmd 32 0x5000000000000000C#67 = .decStart 12 ∧ decodeCmd 32 0x5FFFFFFFF0000000C#67 = .decStart 12 := by decide
/-- PR4's sixth word, `110 : 00000000 : 0000003E`. -/
theorem test_decode_decPush : decodeCmd 32 0x6000000000000003E#67 = .decPush 0x3E#8 := by decide
/-- The four reserved codes of R63, with `op` alone set, and with all other bits at one. -/
theorem test_decode_reserved000 :
    decodeCmd 32 0#67 = .reserved000 ∧ decodeCmd 32 0x0FFFFFFFFFFFFFFFF#67 = .reserved000 := by decide
theorem test_decode_reserved011 : decodeCmd 32 0x30000000000000000#67 = .reserved011 := by decide
theorem test_decode_reserved100 : decodeCmd 32 0x40000000000000000#67 = .reserved100 := by decide
theorem test_decode_reserved111 :
    decodeCmd 32 0x70000000000000000#67 = .reserved111 ∧ decodeCmd 32 0x7FFFFFFFFFFFFFFFF#67 = .reserved111 := by decide
/-- Another width, `IDX_W = 8`, bit by bit: `op = 001`, `A = 00000101`, `B = 00000011`. -/
theorem test_decode_width8 : decodeCmd 8 0b0010000010100000011#19 = .encStart 5 3 := by decide

/-! ### Decoding: stream bytes (R66) and tokens (R67, R71, R73 to R76) -/

theorem test_class_tokOpen :
    decodeStream .outside 0x3C#8 = .tokOpen ∧ decodeStream .offset 0x3C#8 = .tokOpen ∧ decodeStream .length 0x3C#8 = .tokOpen := by
  decide
theorem test_class_tokSep : decodeStream .offset 0x2C#8 = .tokSep ∧ decodeStream .length 0x2C#8 = .tokSep := by decide
theorem test_class_tokClose : decodeStream .offset 0x3E#8 = .tokClose ∧ decodeStream .length 0x3E#8 = .tokClose := by decide
theorem test_class_tokChar :
    decodeStream .offset 0x35#8 = .tokChar 0x35#8 ∧ decodeStream .length 0x61#8 = .tokChar 0x61#8 := by decide
/-- DV3, DV19: outside a token the bytes `,` and `>`, zero and 0xFF are literals. -/
theorem test_class_lit :
    decodeStream .outside 0x2C#8 = .lit 0x2C#8 ∧ decodeStream .outside 0x3E#8 = .lit 0x3E#8 ∧
    decodeStream .outside 0#8 = .lit 0#8 ∧ decodeStream .outside 0xFF#8 = .lit 0xFF#8 := by decide
/-- `<7,6>` as its five bytes (R67), and a byte after it. -/
theorem test_decode_copy :
    decodeToken [0x3C#8, 0x37#8, 0x2C#8, 0x36#8, 0x3E#8, 0x78#8] = .read (.copy 7 6) [0x78#8] := by decide
/-- DV9: leading zeros, `<007,02>`. -/
theorem test_decode_copy_zeros : decodeToken (str ['<', '0', '0', '7', ',', '0', '2', '>']) = .read (.copy 7 2) [] := by decide
/-- The malformed forms of R73 to R76, each refused under its own name. -/
theorem test_decode_rejects :
    decodeToken [] = .reject .noBytes ∧ decodeToken (str ['<', '1', '2']) = .reject .unclosed ∧
    decodeToken (str ['<', ',', '5', '>']) = .reject .emptyOffset ∧ decodeToken (str ['<', '5', '>']) = .reject .badOffset ∧
    decodeToken (str ['<', '5', ',', '>']) = .reject .emptyLength ∧
    decodeToken (str ['<', '1', ',', '2', ',', '3', '>']) = .reject .badLength := by decide
/-- The micro-operations have no encoding of either kind. -/
theorem test_uop_no_encoding :
    ∀ i ∈ [Instr.mLocate [0#8] [], .eExtTest 0#8, .eAbsorb 0#8, .eFlushRun, .eFlushShort, .eAppend 0#8, .eEvict, .eDrain,
      .dCopy 1 1, .dEndOfInput], encodeCmd 32 i = none ∧ encodeStream i = none := by decide
/-- R79's example of an instruction list, `LIT 'A'; LIT 'B'; COPY 7,6`, is `41 42 3C 37 2C 36 3E`. -/
theorem test_assemble :
    assemble [.lit 0x41#8, .lit 0x42#8, .copy 7 6] = some [0x41#8, 0x42#8, 0x3C#8, 0x37#8, 0x2C#8, 0x36#8, 0x3E#8] := by decide
/-- The examples of R70 and R71. -/
theorem test_dec_val :
    dec 0 = str ['0'] ∧ dec 7 = str ['7'] ∧ dec 35 = str ['3', '5'] ∧ val (str ['0', '0', '7']) = 7 ∧
    isnum (str ['-', '1']) = false ∧ isnum [] = false ∧ isnum [0x80#8] = false := by decide
/-- R119's table: a run of 5 becomes a token at an offset of 9 and not at 10. -/
theorem test_toklen : toklen 9 5 = 5 ∧ toklen 10 5 = 6 ∧ toklen 99 6 = 6 := by decide

/-! ### Putting a row of the opcode table before the machine -/

theorem test_table_word_command : decodeTableWord 72 0x1000000010000000D = some (.encStart 1 13) := by decide
theorem test_table_word_byte : decodeTableWord 8 0x3E = some .tokClose := by decide
theorem test_table_word_token : decodeTableWord 40 0x3E352C353C = some (.copy 5 5) := by decide

/-- The word is fetched and run: unit E opens its frame. -/
theorem test_fetch_command :
    ((next (step ((State.resetWith cfg).withFetchWord 72 0x1000000010000000D))).map fun t => (t.enc.port.status, t.enc.w, t.enc.n)) =
      some (.busy, 1, 13) := by decide
/-- Another width: on a build with `IDX_W = 8` the 19-bit word `001 : 00000101 : 00000011` opens a frame with `W = 5`, `N = 3`. -/
theorem test_fetch_width8 :
    ((next (step (State.setCmds [.word 0b0010000010100000011] (State.resetWith { cfg with idxW := 8 })))).map
      fun t => (t.enc.port.status, t.enc.w, t.enc.n)) = some (.busy, 5, 3) := by decide
/-- The byte `<` reaches the parser: the position advances and the state is OFFSET. -/
theorem test_fetch_byte :
    ((next (step ((State.resetWith cfg).withFetchWord 8 0x3C))).map fun t => (t.dec.i, t.dec.state, t.dec.port.status)) =
      some (1, .offset, .busy) := by decide
/-- The token `<5,5>` closes with the history still empty, and copies nothing (R141). -/
theorem test_fetch_token :
    ((next (step ((State.resetWith cfg).withFetchWord 40 0x3E352C353C))).map fun t => (t.dec.state, t.dec.ob, t.dec.out)) =
      some (.outside, [], []) := by decide

/-! ### The matcher (vectors M1 to M15) -/

theorem test_locate_found :
    locate (str ['A', 'B']) (str ['A', 'B']) = .found 0 ∧ locate (str ['A']) (str ['B', 'A']) = .found 1 ∧
    locate (str ['A', 'A', 'B']) (str ['A', 'A', 'A', 'B', ' ', 'A', 'A', 'B']) = .found 5 ∧
    locate (str ['A', 'B', 'A']) (str ['A', 'B', 'A', 'B', 'A']) = .found 0 := by decide
theorem test_locate_missed :
    locate (str ['A', 'B']) (str ['A', 'A', 'B']) = .nf ∧ locate (str ['A', 'A', 'B']) (str ['A', 'A', 'A', 'B']) = .nf ∧
    locate (str ['A', 'B', 'B']) (str ['A', 'B', 'A', 'B', 'B']) = .nf ∧ locate (str ['A']) [] = .nf := by decide
/-- M5 as a row: the index is handed back. -/
theorem test_mLocate_row :
    ((next (exec (.mLocate (str ['A', 'B']) (str ['X', 'X', 'A', 'B', 'X'])) (State.resetWith cfg))).map State.loc) =
      some (.found 2) := by decide
/-- M15. -/
theorem test_mLocate_empty : exec (.mLocate [] (str ['A'])) (State.resetWith cfg) = .refused .emptyNeedle := by rfl

/-! ### Unit E -/

/-- The worked examples of 41_encoder R101. -/
theorem test_encStart_accepted :
    resp .E (.encStart 16 13) (State.resetWith cfg) = some { status := .busy, fault := .fNone, dout := [] } ∧
    resp .E (.encStart 16 0) (State.resetWith cfg) = some { status := .done, fault := .fNone, dout := [] } := by decide
/-- EF1, EF3, EF6. -/
theorem test_encStart_refused :
    resp .E (.encStart 0 13) (State.resetWith cfg) = some (Port.raise .fInvalidArg) ∧
    resp .E (.encStart 0 0) (State.resetWith cfg) = some (Port.raise .fInvalidArg) ∧
    resp .E (.encStart 17 1) (State.resetWith cfg) = some (Port.raise .fInvalidArg) := by decide
/-- PR2's last command: the byte is absorbed and the token `<7,6>` is emitted. -/
theorem test_encPush_absorbed :
    ((encAfter (.encPush 0x46#8) (encoder 16 13 12 (str ['A', 'B', 'C', 'D', 'E', 'F', ' ']) (str ['A', 'B', 'C', 'D', 'E']))).map
      fun e => (e.port, e.sb, e.cc)) =
    some ({ status := .done, fault := .fNone, dout := str ['<', '7', ',', '6', '>'] },
      str ['A', 'B', 'C', 'D', 'E', 'F', ' ', 'A', 'B', 'C', 'D', 'E', 'F'], []) := by decide
/-- PR3's last command: the run cannot be located, one byte is evicted, the last byte is drained. -/
theorem test_encPush_not_locatable :
    ((encAfter (.encPush 0x41#8) (encoder 2 7 6 (str ['A', 'B']) (str ['B', 'A']))).map fun e => (e.port, e.sb, e.cc, e.i)) =
    some ({ status := .done, fault := .fNone, dout := str ['B', 'A', 'A'] }, str ['B', 'B', 'A'], [], 7) := by decide
theorem test_eExtTest_row :
    ((encAfter (.eExtTest 0x42#8) (encoder 2 7 3 (str ['A', 'B']) (str ['A']))).map Enc.found) = some true ∧
    ((encAfter (.eExtTest 0x42#8) (encoder 2 7 4 (str ['A', 'B']) (str ['A', 'B']))).map Enc.found) = some false := by decide
theorem test_eAbsorb_row :
    ((encAfter (.eAbsorb 0x46#8) (bits true true false (encoder 16 13 12 (str ['F']) (str ['E'])))).map fun e => (e.cc, e.absorbed)) =
      some (str ['E', 'F'], true) := by decide
/-- The worked example of 41_encoder R107. -/
theorem test_eFlushRun_token :
    ((encAfter .eFlushRun (bits false false false
      (encoder 16 14 13 (str ['A', 'B', 'C', 'D', 'E', 'F', ' ']) (str ['A', 'B', 'C', 'D', 'E', 'F'])))).map
      fun e => (e.port.dout, e.sb.length, e.cc)) = some (str ['<', '7', ',', '6', '>'], 13, []) := by decide
/-- PR3's push 4: a run of two is located but its token is too long. -/
theorem test_eFlushRun_literals :
    ((encAfter .eFlushRun (bits false false false (encoder 2 7 4 (str ['A', 'B']) (str ['A', 'B'])))).map
      fun e => (e.port.dout, e.sb, e.fits)) = some (str ['A', 'B'], str ['A', 'B', 'A', 'B'], false) := by decide
theorem test_eFlushShort_row :
    ((encAfter .eFlushShort (bits false false false (encoder 16 13 6 (str ['A', 'B', 'C', 'D', 'E']) (str ['F'])))).map
      fun e => (e.port.dout, e.sb, e.cc)) = some (str ['F'], str ['A', 'B', 'C', 'D', 'E', 'F'], []) := by decide
theorem test_eAppend_row :
    ((encAfter (.eAppend 0x42#8) (bits true false false (encoder 2 7 3 (str ['A', 'B']) (str ['A'])))).map Enc.cc) =
      some (str ['A', 'B']) ∧
    ((encAfter (.eAppend 0x42#8) (bits true true true (encoder 2 7 3 (str ['A', 'B']) (str ['A'])))).map Enc.cc) =
      some (str ['A']) := by decide
/-- PR3: two bytes are not more than `W = 2`; of four bytes one goes. -/
theorem test_eEvict_row :
    ((encAfter .eEvict (encoder 2 7 3 (str ['A', 'B']) [])).map Enc.sb) = some (str ['A', 'B']) ∧
    ((encAfter .eEvict (encoder 2 7 4 (str ['A', 'B', 'A', 'B']) [])).map Enc.sb) = some (str ['B', 'A', 'B']) := by decide
theorem test_eDrain_row :
    ((encAfter .eDrain (encoder 2 7 7 (str ['B', 'B', 'A']) (str ['A']))).map fun e => (e.port.dout, e.sb, e.cc)) =
      some (str ['A'], str ['B', 'B', 'A'], []) := by decide
/-- EF9: a reserved code while BUSY. -/
theorem test_reserved011_busy :
    resp .E .reserved011 (encoder 4 3 1 [] (str ['A'])) = some (Port.raise .fProtocol) := by decide
/-- EF2's rule: in FAULT the code of the first fault is kept (R168). -/
theorem test_reserved000_fault :
    resp .E .reserved000 (inStatus .fault .fInvalidArg) = some (Port.raise .fInvalidArg) ∧
    resp .E (.encPush 0x41#8) (inStatus .fault .fInvalidArg) = some (Port.raise .fInvalidArg) := by decide

/-! ### Unit D -/

theorem test_decStart_row :
    resp .D (.decStart 42) (decoder cfg .length [] [] (str ['a'])) = some { status := .busy, fault := .fNone, dout := [] } ∧
    ((decAfter (.decStart 0) (decoder cfg .length [] [] (str ['a']))).map fun d => (d.port.status, d.state, d.out)) =
      some (.done, .outside, []) := by decide
/-- PR1's push 9: the copy of one byte. -/
theorem test_decPush_copy :
    ((decAfter (.decPush 0x3E#8) (decoder cfg .length (str ['2']) (str ['1']) (str ['a', 'b']))).map
      fun d => (d.port.dout, d.out, d.state, d.ob, d.i)) = some (str ['a'], str ['a', 'b', 'a'], .outside, [], 6) := by decide
/-- PR4's sixth command: F_PARSE, and nothing else changes. -/
theorem test_decPush_parse :
    ((decAfter (.decPush 0x3E#8) (decoder cfg .offset (str ['5']) [] (str ['a', 'b']))).map
      fun d => (d.port, d.i, d.ob, d.out, d.state)) = some (Port.raise .fParse, 5, str ['5'], str ['a', 'b'], .offset) := by decide
/-- The worked example of 42_decoder R133. -/
theorem test_tokOpen_row :
    ((decAfter .tokOpen (decoder cfg .length (str ['1', '2']) (str ['3']) [])).map fun d => (d.state, d.ob, d.lb)) =
      some (.offset, [], []) := by decide
/-- 30_encoding R76: a second separator is not stored. -/
theorem test_tokSep_row :
    ((decAfter .tokSep (decoder cfg .length (str ['1']) (str ['2']) [])).map fun d => (d.state, d.ob, d.lb)) =
      some (.length, str ['1'], str ['2']) := by decide
/-- DV4: `abcdef<3,5>` copies `def`. -/
theorem test_tokClose_row :
    ((decAfter .tokClose (decoder cfg .length (str ['3']) (str ['5']) (str ['a', 'b', 'c', 'd', 'e', 'f']))).map
      fun d => (d.out, d.state)) = some (str ['a', 'b', 'c', 'd', 'e', 'f', 'd', 'e', 'f'], .outside) := by decide
/-- DF7: parse is judged before capacity (R169). -/
theorem test_tokClose_parse_first :
    resp .D .tokClose (decoder cfg4 .offset (str ['x']) [] (str ['a', 'b', 'c', 'd'])) = some (Port.raise .fParse) := by decide
/-- The worked example of 42_decoder R137. -/
theorem test_tokChar_row : ((decAfter (.tokChar 0x35#8) (decoder cfg .offset (str ['3']) [] [])).map Dec.ob) = some (str ['3', '5']) := by
  decide
/-- The worked example of 42_decoder R132. -/
theorem test_lit_row :
    ((decAfter (.lit 0x43#8) (decoder cfg .outside [] [] (str ['A', 'B']))).map fun d => (d.out, d.port.dout)) =
      some (str ['A', 'B', 'C'], str ['C']) := by decide
/-- DF4: the fifth byte does not fit. -/
theorem test_lit_capacity :
    resp .D (.lit 0x65#8) (decoder cfg4 .outside [] [] (str ['a', 'b', 'c', 'd'])) = some (Port.raise .fCapacity) := by decide
/-- DV5: `abc<10,2>` clamps. -/
theorem test_copy_row :
    ((decAfter (.copy 10 2) (decoder cfg .outside [] [] (str ['a', 'b', 'c']))).map fun d => (d.out, d.state, d.ob)) =
      some (str ['a', 'b', 'c', 'a', 'b'], .outside, []) := by decide
/-- DF5, DF6: three bytes do not fit, one does. -/
theorem test_dCopy_capacity :
    ((decAfter (.dCopy 3 3) (decoder cfg4 .length [] [] (str ['a', 'b', 'c']))).map fun d => (d.port, d.out)) =
      some (Port.raise .fCapacity, str ['a', 'b', 'c']) ∧
    ((decAfter (.dCopy 3 1) (decoder cfg4 .length [] [] (str ['a', 'b', 'c']))).map Dec.out) = some (str ['a', 'b', 'c', 'a']) := by
  decide
/-- DV12, DV13: an unclosed token is dropped, without a fault. -/
theorem test_dEndOfInput_row :
    ((decAfter .dEndOfInput (decoder cfg .offset (str ['z', 'z']) [] (str ['a', 'b']))).map
      fun d => (d.port.status, d.port.fault, d.ob, d.out, d.state)) = some (.done, .fNone, [], str ['a', 'b'], .offset) := by decide
/-- The choice of log entry 17: from FAULT the row alone goes to DONE and keeps the code. -/
theorem test_dEndOfInput_fault :
    resp .D .dEndOfInput (inStatus .fault .fParse) = some { status := .done, fault := .fParse, dout := [] } := by decide
/-- DF8: a reserved code while DONE. -/
theorem test_reserved111_done : resp .D .reserved111 (inStatus .done .fNone) = some (Port.raise .fProtocol) := by decide
theorem test_reserved100_fault : resp .D .reserved100 (inStatus .fault .fParse) = some (Port.raise .fParse) := by decide

/-! ### Witnesses: what meets the hypotheses of the obligations, clause by clause -/

theorem witness_CommandRoundTrip :
    (Instr.encStart (2 ^ 32 - 1) (2 ^ 32 - 1)).isCommand = true ∧ (Instr.encStart (2 ^ 32 - 1) (2 ^ 32 - 1)).wellFormed 32 = true ∧
    Instr.reserved111.isCommand = true ∧ Instr.reserved111.wellFormed 0 = true := by decide

theorem witness_OperationCodesAndIgnoredBits : ∀ op ∈ [0, 1, 2, 3, 4, 5, 6, 7], op < 8 ∧ 7 < 2 ^ 3 ∧ 0 < 2 ^ 3 := by decide

theorem witness_StreamRoundTrip : (0x3D#8 : Byte) ≠ 0x3C#8 := by decide

theorem witness_DecimalSpelling : (9 : Nat) ≤ 9 ∧ (10 : Nat) ≤ 10 ∧ (1 : Nat) ≤ 1 := by decide

theorem witness_CompactDigitsSuffice : isnum (str ['9', '9']) = true ∧ val (str ['9', '9']) = 99 := by decide

theorem witness_LocateIsSound : locate (str ['A', 'A', 'B']) (str ['A', 'A', 'A', 'B', ' ', 'A', 'A', 'B']) = .found 5 := by decide

theorem witness_LocatePrefixLaw :
    str ['A', 'A'] ≠ [] ∧ locate (str ['A', 'A'] ++ [0x42#8]) (str ['A', 'A', 'A', 'B', ' ', 'A', 'A', 'B']) = .found 5 := by decide

/-- A short haystack; M3 (nothing after the needle); M8 (`AA` matches, the third `A` is consumed); a proper prefix. -/
theorem witness_LocateNeedsRoom :
    (str ['A', 'B']).length < (str ['A', 'B', 'C']).length ∧ str ['A', 'B'] ≠ [] ∧
    (2 < (str ['A', 'A', 'B']).length ∧ (str ['A', 'A', 'B'])[2]? ≠ some 0x41#8) ∧ 2 < (str ['A', 'A', 'B']).length := by decide

theorem witness_LocateRow : str ['A'] ≠ [] := by decide

/-- The byte is last and found; the byte is not absorbed; the byte is absorbed. -/
theorem witness_AbsorbAndAppend :
    ((bits true true false (encoder 2 2 1 (str ['A']) [])).enc.last = true ∧ (bits true true false (encoder 2 2 1 (str ['A']) [])).enc.found = true) ∧
    (encoder 2 2 1 [] []).enc.absorbed = false ∧ (bits true true true (encoder 2 2 1 [] [])).enc.absorbed = true := by decide

/-- A run of two, not found; a run of five whose token has exactly five bytes; a run of four whose token has five. -/
theorem witness_FlushRunEmitsTokenOrRun :
    (let s := encoder 2 7 6 (str ['A', 'B']) (str ['B', 'A'])
     s.enc.found = false ∧ 1 < s.enc.cc.length ∧ locate s.enc.cc s.enc.sb = .nf) ∧
    (let s := bits true true true (encoder 9 10 9 (str ['a', 'b', 'c', 'd', 'e']) (str ['a', 'b', 'c', 'd', 'e']))
     s.enc.last = true ∧ 1 < s.enc.cc.length ∧ locate s.enc.cc s.enc.sb = .found 0 ∧ toklen (s.enc.sb.length - 0) s.enc.cc.length = 5) ∧
    (let s := encoder 9 12 11 (str ['A', 'A', 'A', 'A']) (str ['A', 'A', 'A', 'A'])
     s.enc.found = false ∧ 1 < s.enc.cc.length ∧ locate s.enc.cc s.enc.sb = .found 0 ∧
       s.enc.cc.length < toklen (s.enc.sb.length - 0) s.enc.cc.length) := by decide

theorem witness_FlushShortEmitsTheRun :
    (encoder 2 7 1 [] (str ['A'])).enc.found = false ∧ (encoder 2 7 1 [] (str ['A'])).enc.cc.length ≤ 1 ∧
    (bits true true false (encoder 2 7 0 [] [])).enc.last = true ∧ (encoder 2 7 0 [] []).enc.cc.length ≤ 1 := by decide

theorem witness_EvictDropsOneAboveTheWindow :
    (encoder 2 7 4 (str ['A', 'B', 'A']) []).enc.w < (encoder 2 7 4 (str ['A', 'B', 'A']) []).enc.sb.length ∧
    (encoder 2 7 4 (str ['A', 'B']) []).enc.sb.length ≤ (encoder 2 7 4 (str ['A', 'B']) []).enc.w := by decide

theorem witness_MicroOperationsPassedOver :
    (¬((encoder 2 7 4 [] []).enc.last = true ∧ (encoder 2 7 4 [] []).enc.found = true)) ∧
    ((bits true false false (encoder 2 7 4 [] [])).enc.found = true ∧ (bits true false false (encoder 2 7 4 [] [])).enc.last = false) ∧
    (encoder 2 7 4 [] (str ['A'])).enc.cc.length ≤ 1 ∧ 1 < (encoder 2 7 4 [] (str ['A', 'B'])).enc.cc.length := by decide

/-- The least and the greatest window accepted, and the two next to them that are refused. -/
theorem witness_EncStartOpensOrRefuses :
    (1 ≤ 1 ∧ 1 ≤ (State.resetWith cfg).cfg.wMax) ∧ (1 ≤ 16 ∧ 16 ≤ (State.resetWith cfg).cfg.wMax) ∧
    (0 = 0 ∨ (State.resetWith cfg).cfg.wMax < 0) ∧ (17 = 0 ∨ (State.resetWith cfg).cfg.wMax < 17) := by decide

/-- One state for each of the four ways of an ENC_PUSH. -/
theorem witness_EncPushTurn :
    (let s := encoder 2 7 3 (str ['A', 'B']) (str ['A'])
     s.enc.port.status = .busy ∧ locate (s.enc.cc ++ [0x42#8]) s.enc.sb ≠ .nf ∧ s.enc.i + 1 ≠ s.enc.n) ∧
    (let s := encoder 2 7 4 (str ['A', 'B']) (str ['A', 'B'])
     s.enc.port.status = .busy ∧ locate (s.enc.cc ++ [0x42#8]) s.enc.sb = .nf ∧ s.enc.i + 1 ≠ s.enc.n) ∧
    (let s := encoder 16 13 12 (str ['A', 'B', 'C', 'D', 'E', 'F', ' ']) (str ['A', 'B', 'C', 'D', 'E'])
     s.enc.port.status = .busy ∧ locate (s.enc.cc ++ [0x46#8]) s.enc.sb ≠ .nf ∧ s.enc.i + 1 = s.enc.n) ∧
    (let s := encoder 2 7 6 (str ['A', 'B']) (str ['B', 'A'])
     s.enc.port.status = .busy ∧ locate (s.enc.cc ++ [0x41#8]) s.enc.sb = .nf ∧ s.enc.i + 1 = s.enc.n) := by decide

theorem witness_EmittedTokenShape :
    1 < (str ['a', 'b', 'c', 'd', 'e']).length ∧
    locate (str ['a', 'b', 'c', 'd', 'e']) (str ['x', 'a', 'b', 'c', 'd', 'e']) = .found 1 ∧
    toklen ((str ['x', 'a', 'b', 'c', 'd', 'e']).length - 1) (str ['a', 'b', 'c', 'd', 'e']).length ≤
      (str ['a', 'b', 'c', 'd', 'e']).length := by decide

/-- Both units with a frame open; PR3 before its last command, where the run is as long as the window. -/
theorem witness_busy_inv : (encoder 2 7 6 (str ['A', 'B']) (str ['B', 'A'])).Inv := Test.inv_of (by decide) (by decide) (by decide) (by decide) rfl

/-- That state; and one where the run extends with the frame's last byte, and then is as long as the window. -/
theorem witness_BuffersStayWithinCapacity :
    ((encoder 2 7 6 (str ['A', 'B']) (str ['B', 'A'])).Inv ∧ (encoder 2 7 6 (str ['A', 'B']) (str ['B', 'A'])).enc.port.status = .busy) ∧
    (let s := encoder 2 4 3 (str ['A', 'B']) (str ['A'])
     s.Inv ∧ s.enc.port.status = .busy ∧ s.enc.i + 1 = s.enc.n ∧ locate (s.enc.cc ++ [0x42#8]) s.enc.sb ≠ .nf) :=
  ⟨⟨witness_busy_inv, rfl⟩, Test.inv_of (by decide) (by decide) (by decide) (by decide) rfl, by decide⟩

theorem witness_EncPushEmitsLittle :
    ∃ t, (encoder 2 7 6 (str ['A', 'B']) (str ['B', 'A'])).Inv ∧
      exec (.encPush 0x41#8) (encoder 2 7 6 (str ['A', 'B']) (str ['B', 'A'])) = .next t :=
  ⟨_, witness_busy_inv, rfl⟩

theorem witness_DecPushInsideTokens :
    (decoder cfg .length (str ['1']) (str ['2']) []).dec.port.status = .busy ∧ (decoder cfg .length [] [] []).dec.state ≠ .outside ∧
    (decoder cfg .offset [] [] []).dec.state = .offset ∧ (decoder cfg .length [] [] []).dec.state = .length ∧
    (0x3D#8 : Byte) ≠ 0x3C#8 ∧ (0x3D#8 : Byte) ≠ 0x2C#8 ∧ (0x3D#8 : Byte) ≠ 0x3E#8 := by decide

/-- With `OUT_CAP = 4`: the fourth byte fits, the fifth does not. -/
theorem witness_DecPushLiteral :
    (let s := decoder cfg4 .outside [] [] (str ['a', 'b', 'c'])
     s.dec.port.status = .busy ∧ s.dec.state = .outside ∧ (0x3E#8 : Byte) ≠ 0x3C#8 ∧ fitsCap s.cfg.outCap (s.dec.out.length + 1) = true) ∧
    (let s := decoder cfg4 .outside [] [] (str ['a', 'b', 'c', 'd'])
     s.dec.port.status = .busy ∧ s.dec.state = .outside ∧ (0x3E#8 : Byte) ≠ 0x3C#8 ∧
       fitsCap s.cfg.outCap (s.dec.out.length + 1) = false) := by decide

/-- With `OUT_CAP = 4` and three bytes of history: a malformed field; a copy of one byte; a copy of two. -/
theorem witness_DecPushClose :
    (let s := decoder cfg4 .offset (str ['5']) [] (str ['a', 'b', 'c'])
     s.dec.port.status = .busy ∧ s.dec.state ≠ .outside ∧ isnum s.dec.lb = false) ∧
    (let s := decoder cfg4 .length (str ['3']) (str ['1']) (str ['a', 'b', 'c'])
     s.dec.port.status = .busy ∧ s.dec.state ≠ .outside ∧ isnum s.dec.ob = true ∧ isnum s.dec.lb = true ∧
       fitsCap s.cfg.outCap (s.dec.out.length + min (val s.dec.lb) (min (val s.dec.ob) s.dec.out.length)) = true) ∧
    (let s := decoder cfg4 .length (str ['3']) (str ['2']) (str ['a', 'b', 'c'])
     s.dec.port.status = .busy ∧ s.dec.state ≠ .outside ∧ isnum s.dec.ob = true ∧ isnum s.dec.lb = true ∧
       fitsCap s.cfg.outCap (s.dec.out.length + min (val s.dec.lb) (min (val s.dec.ob) s.dec.out.length)) = false) := by decide

theorem witness_HistoryIsWhatWasEmitted : ∃ t, exec (.decPush 0x63#8) (decoder cfg .outside [] [] (str ['a', 'b'])) = .next t := ⟨_, rfl⟩

theorem witness_TokenByteRows :
    (decoder cfg .offset [] [] []).dec.state ≠ .outside ∧ (decoder cfg .offset [] [] []).dec.state = .offset ∧
    (decoder cfg .length [] [] []).dec.state = .length ∧ (0x30#8 : Byte) ≠ 0x3C#8 ∧ (0x30#8 : Byte) ≠ 0x2C#8 ∧ (0x30#8 : Byte) ≠ 0x3E#8 := by
  decide

theorem witness_LiteralRow :
    (decoder cfg4 .outside [] [] (str ['a', 'b', 'c'])).dec.state = .outside ∧ (0x2C#8 : Byte) ≠ 0x3C#8 ∧
    fitsCap cfg4.outCap ((decoder cfg4 .outside [] [] (str ['a', 'b', 'c'])).dec.out.length + 1) = true ∧
    fitsCap cfg4.outCap ((decoder cfg4 .outside [] [] (str ['a', 'b', 'c', 'd'])).dec.out.length + 1) = false := by decide

/-- The states of `witness_DecPushClose`, without the status. -/
theorem witness_CloseRow :
    (let s := decoder cfg4 .length [] (str ['1']) (str ['a', 'b', 'c']); s.dec.state ≠ .outside ∧ isnum s.dec.ob = false) ∧
    (let s := decoder cfg4 .length (str ['3']) (str ['1']) (str ['a', 'b', 'c'])
     s.dec.state ≠ .outside ∧ isnum s.dec.ob = true ∧ isnum s.dec.lb = true ∧
       fitsCap s.cfg.outCap (s.dec.out.length + min (val s.dec.lb) (min (val s.dec.ob) s.dec.out.length)) = true) ∧
    (let s := decoder cfg4 .length (str ['9']) (str ['2']) (str ['a', 'b', 'c'])
     s.dec.state ≠ .outside ∧ isnum s.dec.ob = true ∧ isnum s.dec.lb = true ∧
       fitsCap s.cfg.outCap (s.dec.out.length + min (val s.dec.lb) (min (val s.dec.ob) s.dec.out.length)) = false) := by decide

theorem witness_MarksOutsideAreLiterals : (State.resetWith cfg).dec.state = .outside ∧ (0x41#8 : Byte) ≠ 0x3C#8 := by decide

/-- `OUT_CAP = 4`, three bytes of history: DF6 fits, DF5 does not. -/
theorem witness_CopyUnitAppendsTheReferenced :
    (let s := decoder cfg4 .length [] [] (str ['a', 'b', 'c']); fitsCap s.cfg.outCap (s.dec.out.length + min 1 (min 3 s.dec.out.length)) = true) ∧
    (let s := decoder cfg4 .length [] [] (str ['a', 'b', 'c'])
     fitsCap s.cfg.outCap (s.dec.out.length + min 3 (min 3 s.dec.out.length)) = false) := by decide

/-- Three bytes of history: an offset of 4 clamps; an offset of 3 with a length of 4 is cut. -/
theorem witness_CopyClampsAndTruncates :
    (decoder cfg .length [] [] (str ['a', 'b', 'c'])).dec.out.length < 4 ∧
    3 ≤ (decoder cfg .length [] [] (str ['a', 'b', 'c'])).dec.out.length ∧ (3 : Nat) < 4 := by decide

theorem witness_ZeroFieldsCopyNothing :
    fitsCap cfg4.outCap (decoder cfg4 .length [] [] (str ['a', 'b', 'c', 'd'])).dec.out.length = true := by decide

theorem witness_SaturationIsHarmless :
    (decoder cfg4 .length [] [] (str ['a', 'b', 'c', 'd'])).cfg.outCap = some 4 ∧
    (decoder cfg4 .length [] [] (str ['a', 'b', 'c', 'd'])).dec.out.length ≤ 4 ∧ (4 : Nat) ≤ 4 := by decide

/-- As for D.COPY, met in state OUTSIDE and in state LENGTH. -/
theorem witness_CopyTokenRow :
    (let s := decoder cfg4 .outside [] [] (str ['a', 'b', 'c'])
     fitsCap s.cfg.outCap (s.dec.out.length + min 1 (min 3 s.dec.out.length)) = true) ∧
    (let s := decoder cfg4 .length (str ['7']) [] (str ['a', 'b', 'c'])
     fitsCap s.cfg.outCap (s.dec.out.length + min 3 (min 3 s.dec.out.length)) = false) := by decide

theorem witness_MisuseRaisesProtocol :
    (inStatus .idle .fNone).enc.port.status = .idle ∧ (inStatus .done .fNone).enc.port.status = .done ∧
    (inStatus .busy .fNone).enc.port.status ≠ .fault ∧ (inStatus .fault .fProtocol).enc.port.status = .fault ∧
    (inStatus .idle .fNone).dec.port.status = .idle ∧ (inStatus .done .fNone).dec.port.status = .done ∧
    (inStatus .busy .fNone).dec.port.status ≠ .fault ∧ (inStatus .fault .fParse).dec.port.status = .fault := by decide

/-- Reset, with a command to come after it, applied to a machine with a frame open; a machine with nothing issued. -/
theorem witness_ResetValues :
    (∃ s, (State.setCmds [.powerOn, .word 0] (decoder cfg .length [] [] (str ['a']))).cmds = .powerOn :: [.word 0] ∧
      step (State.setCmds [.powerOn, .word 0] (decoder cfg .length [] [] (str ['a']))) = .next s) ∧
    (decoder cfg .length [] [] (str ['a'])).cmds = [] := ⟨⟨_, rfl, rfl⟩, rfl⟩

/-- PR1's first word, issued. -/
theorem witness_StepRunsTheIssuedCommand :
    (State.setCmds [.word 0x5000000000000000C, .powerOn] (State.resetWith cfg)).cmds = .word 0x5000000000000000C :: [.powerOn] := by
  decide

/-- PR3 before its last command, with that command issued. -/
theorem witness_StepKeepsInvariant :
    ∃ t, (State.setCmds [.word 0x20000000000000041] (encoder 2 7 6 (str ['A', 'B']) (str ['B', 'A']))).Inv ∧
      step (State.setCmds [.word 0x20000000000000041] (encoder 2 7 6 (str ['A', 'B']) (str ['B', 'A']))) = .next t :=
  ⟨_, Test.inv_of (by decide) (by decide) (by decide) (by decide) rfl, rfl⟩

/-- A row of E and a row of D, each in two machines that agree on that unit only. -/
theorem witness_UnitsShareNoState :
    (∃ t t', (encoder 2 7 3 [] []).cfg = (encoder 2 7 3 [] []).cfg ∧ exec (.encPush 0x41#8) (encoder 2 7 3 [] []) = .next t ∧
      exec (.encPush 0x41#8) ((encoder 2 7 3 [] []).setDec (decoder cfg .offset [] [] []).dec) = .next t' ∧ (Instr.encPush 0x41#8).unit = .E ∧
      (encoder 2 7 3 [] []).enc = ((encoder 2 7 3 [] []).setDec (decoder cfg .offset [] [] []).dec).enc) ∧
    (∃ t t', (decoder cfg .offset [] [] []).cfg = (encoder 2 7 3 [] []).cfg ∧ exec (.decPush 0x41#8) (decoder cfg .offset [] [] []) = .next t ∧
      exec (.decPush 0x41#8) ((encoder 2 7 3 [] []).setDec (decoder cfg .offset [] [] []).dec) = .next t' ∧ (Instr.decPush 0x41#8).unit = .D ∧
      (decoder cfg .offset [] [] []).dec = ((encoder 2 7 3 [] []).setDec (decoder cfg .offset [] [] []).dec).dec) :=
  ⟨⟨_, _, rfl, rfl, rfl, rfl, rfl⟩, ⟨_, _, rfl, rfl, rfl, rfl, rfl⟩⟩

theorem witness_UnitsCommute : (Instr.encStart 1 2).unit = .E ∧ (Instr.decPush 0x61#8).unit = .D := by decide

/-- Two machines that differ, and one accepted START of each unit in both. -/
theorem witness_StartForgetsTheUnit :
    (∃ t t', 1 ≤ 16 ∧ 16 ≤ (encoder 2 7 3 [] []).cfg.wMax ∧ (encoder 2 7 3 [] []).cfg = (inStatus .fault .fProtocol).cfg ∧
      exec (.encStart 16 3) (encoder 2 7 3 [] []) = .next t ∧ exec (.encStart 16 3) (inStatus .fault .fProtocol) = .next t') ∧
    (∃ t t', exec (.decStart 3) (decoder cfg .offset [] [] []) = .next t ∧ exec (.decStart 3) (inStatus .fault .fParse) = .next t') :=
  ⟨⟨_, _, by decide, by decide, rfl, rfl, rfl⟩, ⟨_, _, rfl, rfl⟩⟩

/-- Both units in FAULT, with a PUSH to the encoder issued. -/
theorem witness_FaultIsSticky :
    ∃ t, step (State.setCmds [.word 0x20000000000000041] (inStatus .fault .fProtocol)) = .next t ∧
      (inStatus .fault .fProtocol).enc.port.status = .fault ∧ (inStatus .fault .fProtocol).dec.port.status = .fault :=
  ⟨_, rfl, rfl, rfl⟩

/-- A command that raises each fault of each unit, in a state where it was not recorded; both causes of F_CAPACITY and both
of F_PROTOCOL. -/
theorem witness_FaultOrigins :
    (∃ t, (Instr.encStart 0 1).isCommand = true ∧ exec (.encStart 0 1) (State.resetWith cfg) = .next t ∧
      t.enc.port.fault = .fInvalidArg ∧ (State.resetWith cfg).enc.port.fault ≠ .fInvalidArg ∧ t.enc.port.status = .fault) ∧
    (∃ t, (Instr.decPush 0x3E#8).isCommand = true ∧ exec (.decPush 0x3E#8) (decoder cfg .offset (str ['5']) [] []) = .next t ∧
      t.dec.port.fault = .fParse ∧ (decoder cfg .offset (str ['5']) [] []).dec.port.fault ≠ .fParse ∧ t.dec.port.status = .fault) ∧
    (∃ t, (Instr.decPush 0x65#8).isCommand = true ∧
      exec (.decPush 0x65#8) (decoder cfg4 .outside [] [] (str ['a', 'b', 'c', 'd'])) = .next t ∧
      t.dec.port.fault = .fCapacity ∧ (decoder cfg4 .outside [] [] (str ['a', 'b', 'c', 'd'])).dec.port.fault ≠ .fCapacity) ∧
    (∃ t, exec (.decPush 0x3E#8) (decoder cfg4 .length (str ['3']) (str ['2']) (str ['a', 'b', 'c'])) = .next t ∧
      t.dec.port.fault = .fCapacity ∧
      (decoder cfg4 .length (str ['3']) (str ['2']) (str ['a', 'b', 'c'])).dec.port.fault ≠ .fCapacity) ∧
    (∃ t, exec (.encPush 0x41#8) (inStatus .idle .fNone) = .next t ∧ t.enc.port.fault = .fProtocol ∧
      (inStatus .idle .fNone).enc.port.fault ≠ .fProtocol) ∧
    (∃ t, Instr.reserved011.isCommand = true ∧ exec .reserved011 (inStatus .busy .fNone) = .next t ∧
      t.enc.port.fault = .fProtocol ∧ (inStatus .busy .fNone).enc.port.fault ≠ .fProtocol) ∧
    (∃ t, exec (.decPush 0x41#8) (inStatus .done .fNone) = .next t ∧ t.dec.port.fault = .fProtocol ∧
      (inStatus .done .fNone).dec.port.fault ≠ .fProtocol) ∧
    (∃ t, Instr.reserved100.isCommand = true ∧ exec .reserved100 (inStatus .busy .fNone) = .next t ∧
      t.dec.port.fault = .fProtocol ∧ (inStatus .busy .fNone).dec.port.fault ≠ .fProtocol) :=
  ⟨⟨_, rfl, rfl, by decide, by decide, by decide⟩, ⟨_, rfl, rfl, by decide, by decide, by decide⟩,
    ⟨_, rfl, rfl, by decide, by decide⟩, ⟨_, rfl, by decide, by decide⟩, ⟨_, rfl, by decide, by decide⟩,
    ⟨_, rfl, rfl, by decide, by decide⟩, ⟨_, rfl, by decide, by decide⟩, ⟨_, rfl, rfl, by decide, by decide⟩⟩

theorem witness_EncodeFrameIsEncode : 1 ≤ 16 ∧ 16 ≤ (inStatus .fault .fProtocol).cfg.wMax := by decide

/-- DV5 decodes; DF4 runs out of room. -/
theorem witness_DecodeFrameIsDecode :
    decodeFn none (str ['a', 'b', 'c', '<', '1', '0', ',', '2', '>']) = .output (str ['a', 'b', 'c', 'a', 'b']) ∧
    decodeFn (some 4) (str ['a', 'b', 'c', 'd', 'e']) = .fail .fCapacity := by decide

theorem witness_WindowHoldsTheInputTail :
    ∃ t out, 1 ≤ 2 ∧ 2 ≤ (State.resetWith cfg).cfg.wMax ∧ (str ['A', 'B']).length < 7 ∧
      runCommands .E (.encStart 2 7 :: (str ['A', 'B']).map .encPush) (State.resetWith cfg) = some (t, out) :=
  ⟨_, _, by decide, by decide, by decide, rfl⟩

/-- `OUT_CAP = 4` and an input of exactly four bytes. -/
theorem witness_RoundTrip :
    1 ≤ 16 ∧ 16 ≤ (State.resetWith cfg4).cfg.wMax ∧ 0x3C#8 ∉ str ['a', ',', 'b', '>'] ∧
    fitsCap (State.resetWith cfg4).cfg.outCap (str ['a', ',', 'b', '>']).length = true := by decide

theorem witness_LiteralPassthrough :
    0x3C#8 ∉ str ['a', ',', 'b', '>'] ∧ fitsCap (some 4) (str ['a', ',', 'b', '>']).length = true := by decide

end Sys2Proof.Machine
end

namespace Sys2Proof.Machine

/-! ### What a step takes from the host -/

/-- A step takes the input the host issued first and leaves the later ones issued (20_memory R40, R46). -/
theorem step_of_cmds_cons {s : State} {x : HostInput} {rest : List HostInput} (h : s.cmds = x :: rest) :
    step s = takeInput x (s.setCmds rest) := by
  simp only [step, h]

/-- A command word is decoded at the machine's own `IDX_W` and executed whole (00_scope R8, 30_encoding R60). -/
theorem takeInput_word (w : Nat) (s : State) :
    takeInput (.word w) s = exec (decodeCmd s.cfg.idxW (BitVec.ofNat (2 * s.cfg.idxW + 3) w)) s := rfl

/-- Settles O46: the step takes the word, and taking it off the channel leaves `IDX_W` as built. -/
theorem stepRunsTheIssuedCommand : Obligations.StepRunsTheIssuedCommand := by
  intro s w rest h
  calc step s = takeInput (.word w) (s.setCmds rest) := step_of_cmds_cons h
    _ = exec (decodeCmd s.cfg.idxW (BitVec.ofNat (2 * s.cfg.idxW + 3) w)) (s.setCmds rest) :=
      takeInput_word w (s.setCmds rest)

end Sys2Proof.Machine

namespace Sys2Proof.Machine

/-! ### Rows and the unit they belong to -/

/-- A row of unit E reads the parameters and unit E, and writes unit E (10_state R10, R29, R32). -/
theorem exec_of_unit_E {i : Instr} (h : i.unit = .E) :
    ∃ f : Config → Enc → Enc, ∀ s, exec i s = .next (s.setEnc (f s.cfg s.enc)) := by
  cases i with
  | encStart w n => exact ⟨fun cfg e => e.start cfg w n, fun _ => rfl⟩
  | encPush b => exact ⟨fun _ e => e.push b, fun _ => rfl⟩
  | reserved000 => exact ⟨fun _ e => e.setPort e.port.misuse, fun _ => rfl⟩
  | reserved011 => exact ⟨fun _ e => e.setPort e.port.misuse, fun _ => rfl⟩
  | eExtTest b => exact ⟨fun _ e => e.extTest b, fun _ => rfl⟩
  | eAbsorb b =>
    refine ⟨fun _ e => if e.absorbTriggered then e.absorb b else e, fun s => ?_⟩
    simp only [exec, execEAbsorb]; split <;> rfl
  | eFlushRun =>
    refine ⟨fun _ e => if e.flushTriggered ∧ e.cc.length > 1 then e.flushRun else e, fun s => ?_⟩
    simp only [exec, execEFlushRun]; split <;> rfl
  | eFlushShort =>
    refine ⟨fun _ e => if e.flushTriggered ∧ e.cc.length ≤ 1 then e.flushShort else e, fun s => ?_⟩
    simp only [exec, execEFlushShort]; split <;> rfl
  | eAppend b => exact ⟨fun _ e => e.appendStep b, fun _ => rfl⟩
  | eEvict => exact ⟨fun _ e => e.evict, fun _ => rfl⟩
  | eDrain => exact ⟨fun _ e => e.drain, fun _ => rfl⟩
  | _ => cases h

/-- A row of unit D reads the parameters and unit D, and writes unit D (10_state R10, R29, R32). -/
theorem exec_of_unit_D {i : Instr} (h : i.unit = .D) :
    ∃ f : Config → Dec → Dec, ∀ s, exec i s = .next (s.setDec (f s.cfg s.dec)) := by
  cases i with
  | decStart n => exact ⟨fun _ d => d.start n, fun _ => rfl⟩
  | decPush b => exact ⟨fun cfg d => d.push cfg.outCap b, fun _ => rfl⟩
  | reserved100 => exact ⟨fun _ d => d.setPort d.port.misuse, fun _ => rfl⟩
  | reserved111 => exact ⟨fun _ d => d.setPort d.port.misuse, fun _ => rfl⟩
  | tokOpen => exact ⟨fun _ d => d.tokOpen, fun _ => rfl⟩
  | tokSep =>
    refine ⟨fun cfg d => if d.state = .outside then (d.lit cfg.outCap markSep).state else d.tokSep, fun s => ?_⟩
    simp only [exec, execTokSep]; split <;> rfl
  | tokClose =>
    refine ⟨fun cfg d => if d.state = .outside then (d.lit cfg.outCap markClose).state
      else (d.tokClose cfg.outCap).state, fun s => ?_⟩
    simp only [exec, execTokClose]; split <;> rfl
  | tokChar b =>
    refine ⟨fun cfg d => if d.state ≠ .outside ∧ b ≠ markOpen ∧ b ≠ markSep ∧ b ≠ markClose then d.tokChar b
      else (d.action cfg.outCap b).state, fun s => ?_⟩
    simp only [exec, execTokChar]; split <;> rfl
  | lit b =>
    refine ⟨fun cfg d => if d.state = .outside ∧ b ≠ markOpen then (d.lit cfg.outCap b).state
      else (d.action cfg.outCap b).state, fun s => ?_⟩
    simp only [exec, execLit]; split <;> rfl
  | copy o l => exact ⟨fun cfg d => (d.actions cfg.outCap (tokenText o l)).state, fun _ => rfl⟩
  | dCopy o l => exact ⟨fun cfg d => (d.copyUnit cfg.outCap o l).state, fun _ => rfl⟩
  | dEndOfInput => exact ⟨fun _ d => d.endOfInput, fun _ => rfl⟩
  | _ => cases h

/-- The row of unit M, where it completes, writes the matcher's answer only (40_matcher R90). -/
theorem exec_of_unit_M {i : Instr} {s t : State} (h : i.unit = .M) (ht : exec i s = .next t) :
    ∃ r, t = s.setLoc r := by
  cases i with
  | mLocate needle hay =>
    simp only [exec, execMLocate] at ht
    split at ht
    · cases ht
    · exact ⟨_, (Host.Outcome.next.inj ht).symm⟩
  | _ => cases h

/-- What every row leaves alone. -/
theorem exec_frame {i : Instr} {s t : State} (ht : exec i s = .next t) :
    t.cfg = s.cfg ∧ t.cmds = s.cmds ∧ (i.unit ≠ .E → t.enc = s.enc) ∧ (i.unit ≠ .D → t.dec = s.dec) ∧
      (i.unit ≠ .M → t.loc = s.loc) := by
  cases hu : i.unit with
  | E =>
    obtain ⟨f, hf⟩ := exec_of_unit_E hu
    obtain rfl := Host.Outcome.next.inj ((hf s).symm.trans ht)
    simp
  | D =>
    obtain ⟨f, hf⟩ := exec_of_unit_D hu
    obtain rfl := Host.Outcome.next.inj ((hf s).symm.trans ht)
    simp
  | M =>
    obtain ⟨r, rfl⟩ := exec_of_unit_M hu ht
    simp

/-- Settles O50: a row of E or D is a function of the parameters and of its own unit, put back into that unit. -/
theorem unitsShareNoState : Obligations.UnitsShareNoState := by
  refine ⟨fun _ _ _ ht => exec_frame ht, fun i s s' t t' hcfg ht ht' => ⟨fun hu henc => ?_, fun hu hdec => ?_⟩⟩
  · obtain ⟨f, hf⟩ := exec_of_unit_E hu
    obtain rfl := Host.Outcome.next.inj ((hf s).symm.trans ht)
    obtain rfl := Host.Outcome.next.inj ((hf s').symm.trans ht')
    simp only [State.setEnc_enc, hcfg, henc]
  · obtain ⟨f, hf⟩ := exec_of_unit_D hu
    obtain rfl := Host.Outcome.next.inj ((hf s).symm.trans ht)
    obtain rfl := Host.Outcome.next.inj ((hf s').symm.trans ht')
    simp only [State.setDec_dec, hcfg, hdec]

/-! ### The commands of unit E -/

/-- An accepted ENC_START (41_encoder R101). -/
theorem Enc.start_accepted {cfg : Config} {w : Nat} (hw : 1 ≤ w) (hmax : w ≤ cfg.wMax) (n : Nat) (e : Enc) :
    e.start cfg w n =
      { port := { status := if n = 0 then .done else .busy, fault := .fNone, dout := [] }
        w := w, n := n, i := 0, sb := [], cc := []
        found := false, last := false, absorbed := false, fits := false } := by
  have hgood : ¬(w = 0 ∨ w > cfg.wMax) := by omega
  simp only [Enc.start, hgood, if_false, Enc.killBits]

/-- A refused ENC_START: the window and the length of the frame before stay (41_encoder R101, 60_exceptions R167). -/
theorem Enc.start_refused {cfg : Config} {w : Nat} (hw : w = 0 ∨ cfg.wMax < w) (n : Nat) (e : Enc) :
    e.start cfg w n = { e.killBits with port := Port.raise .fInvalidArg, sb := [], cc := [], i := 0 } := by
  simp only [Enc.start, if_pos hw]
  rfl

/-- Settles O52: the states after an accepted START are written out by `Enc.start_accepted` and `Dec.start`, with no field
of the unit before in them. -/
theorem startForgetsTheUnit : Obligations.StartForgetsTheUnit := by
  refine ⟨fun w n s s' t t' hw hmax hcfg ht ht' => ?_, fun n s s' t t' ht ht' => ?_⟩
  · obtain rfl := Host.Outcome.next.inj ht
    obtain rfl := Host.Outcome.next.inj ht'
    simp only [State.setEnc_enc, Enc.start_accepted hw hmax, Enc.start_accepted hw (hcfg ▸ hmax)]
  · obtain rfl := Host.Outcome.next.inj ht
    obtain rfl := Host.Outcome.next.inj ht'
    rfl

/-! ### Misuse -/

@[simp] theorem Port.misuse_status (p : Port) : p.misuse.status = .fault := by
  by_cases h : p.status = .fault <;> simp [Port.misuse, h]

@[simp] theorem Port.misuse_fault (p : Port) :
    p.misuse.fault = if p.status = .fault then p.fault else .fProtocol := by
  by_cases h : p.status = .fault <;> simp [Port.misuse, h]

@[simp] theorem Port.misuse_dout (p : Port) : p.misuse.dout = [] := by
  by_cases h : p.status = .fault <;> simp [Port.misuse, h]

/-! ### What ENC_PUSH leaves and emits -/

/-- A needle the scan finds is no longer than what has matched so far and the haystack to come. -/
theorem length_le_of_scan_found {needle : List Byte} {r : Nat} (hay : List Byte) :
    ∀ j c, scan needle hay j c = .found r → needle.length ≤ c + hay.length := by
  induction hay with
  | nil => intro j c h; cases h
  | cons v hay ih =>
    intro j c h
    rw [scan_cons] at h
    rw [List.length_cons]
    split at h
    · split at h
      · omega
      · have := ih _ _ h; omega
    · have := ih _ _ h; omega

/-- A needle that is found is no longer than the haystack (40_matcher R94). -/
theorem length_le_of_locate_found {needle hay : List Byte} {r : Nat} (h : locate needle hay = .found r) :
    needle.length ≤ hay.length := by
  simpa using length_le_of_scan_found hay 0 0 h

/-- A run that still extends is shorter than the search buffer. -/
theorem length_lt_of_foundBit {b : Byte} {e : Enc} (h : foundBit b e = true) : e.cc.length < e.sb.length := by
  obtain ⟨r, hr⟩ := (Locate.isFound_iff _).mp h
  simpa [append] using length_le_of_locate_found hr

theorem length_trim (w : Nat) (sb : List Byte) :
    (trim w sb).length = if w < sb.length then sb.length - 1 else sb.length := by
  simp only [trim]
  split <;> simp

/-- The text of a token is as long as `toklen` says (30_encoding R72). -/
theorem length_tokenText (o l : Nat) : (tokenText o l).length = toklen o l := by
  simp only [tokenText, toklen, List.length_append, List.length_cons, List.length_nil]
  omega

/-- A flush never emits more bytes than the run has: a longer token is not taken (41_encoder R109). -/
theorem length_flushText_le (cc sb : List Byte) : (flushText cc sb).length ≤ cc.length := by
  unfold flushText
  split
  · split
    · split
      · rwa [length_tokenText]
      · exact le_rfl
    · exact le_rfl
  · exact le_rfl

/-- Unit E after an ENC_PUSH in status BUSY whose lines before E.EVICT left the buffers `sb` and `cc` and emitted `text`: one
byte above the window evicted, the counter advanced, and with the frame's last byte the run drained and the status DONE
(41_encoder R112, R113). -/
def Enc.afterByte (sb cc text : List Byte) (e : Enc) : Enc where
  port := { status := if e.i + 1 = e.n then .done else e.port.status, fault := e.port.fault
            dout := if e.i + 1 = e.n then text ++ cc else text }
  w := e.w
  n := e.n
  i := e.i + 1
  sb := trim e.w sb
  cc := if e.i + 1 = e.n then [] else cc
  found := false
  last := false
  absorbed := false
  fits := false

/-- The lines of ENC_PUSH from E.EVICT on (41_encoder R112, R113). -/
theorem Enc.evict_advance_killBits (e : Enc) :
    e.evict.advance.killBits =
      { e.afterByte e.sb e.cc [] with
        port := { status := if e.i + 1 = e.n then .done else e.port.status, fault := e.port.fault
                  dout := if e.i + 1 = e.n then e.port.dout ++ e.cc else e.port.dout } } := by
  rw [Enc.evict_eq]
  by_cases h : e.i + 1 = e.n <;> simp [Enc.advance, Enc.drain, Enc.emitRun, Enc.killBits, Enc.afterByte, Port.emitSeq, h]

/-- The two lines of ENC_PUSH that set the condition bits (41_encoder R103, R105). -/
theorem Enc.extTest_setLast (b : Byte) (e : Enc) :
    (e.extTest b).setLast = { e with found := foundBit b e, last := lastBit e, absorbed := false } := rfl

/-- The lines of ENC_PUSH before E.EVICT when the run extends and more is to come (41_encoder R103, R111). -/
theorem Enc.beforeEvict_extends {b : Byte} {e : Enc} (hf : foundBit b e = true) (hl : lastBit e = false) :
    e.beforeEvict b = { e with cc := e.cc ++ [b], found := true, last := false, absorbed := false } := by
  rw [Enc.beforeEvict, Enc.extTest_setLast, hf, hl]
  obtain ⟨f, hflush⟩ := Enc.flushStep_eq b { e with found := true, last := false, absorbed := false }
  rw [hflush]
  simp [Enc.flushTriggered, Enc.appendStep, Enc.appendByte, append]

/-- The lines of ENC_PUSH before E.EVICT when the run does not extend: it is flushed, and the byte begins a new one
(41_encoder R104, R107, R110, R111). -/
theorem Enc.beforeEvict_flushes {b : Byte} {e : Enc} (hf : foundBit b e = false) :
    ∃ f, e.beforeEvict b =
      { e with port := e.port.emitSeq (flushText e.cc e.sb), sb := e.sb ++ e.cc, cc := [b]
               found := false, last := lastBit e, absorbed := false, fits := f } := by
  rw [Enc.beforeEvict, Enc.extTest_setLast, hf]
  obtain ⟨f, hflush⟩ := Enc.flushStep_eq b { e with found := false, last := lastBit e, absorbed := false }
  refine ⟨f, ?_⟩
  rw [hflush]
  simp [Enc.flushTriggered, Enc.absorbTriggered, Enc.appendStep, Enc.appendByte, append]

/-- The lines of ENC_PUSH before E.EVICT when the run extends with the frame's last byte: the byte is absorbed and the run
flushed (41_encoder R105, R106, R107, R110). -/
theorem Enc.beforeEvict_absorbs {b : Byte} {e : Enc} (hf : foundBit b e = true) (hl : lastBit e = true) :
    ∃ f, e.beforeEvict b =
      { e with port := e.port.emitSeq (flushText (e.cc ++ [b]) e.sb), sb := e.sb ++ (e.cc ++ [b]), cc := []
               found := true, last := true, absorbed := true, fits := f } := by
  rw [Enc.beforeEvict, Enc.extTest_setLast, hf, hl]
  obtain ⟨f, hflush⟩ := Enc.flushStep_eq b { e with found := true, last := true, absorbed := false }
  refine ⟨f, ?_⟩
  rw [hflush]
  simp [Enc.flushTriggered, Enc.absorbTriggered, Enc.appendStep]

/-- ENC_PUSH in status BUSY begins with an empty channel and runs its lines. -/
theorem Enc.push_of_busy {e : Enc} (hb : e.port.status = .busy) (b : Byte) :
    e.push b = ((e.setPort e.port.clearOut).beforeEvict b).evict.advance.killBits := by
  rw [Enc.push, if_pos hb, Enc.turn]

/-- ENC_PUSH in any other status. -/
theorem Enc.push_of_not_busy {e : Enc} (hb : e.port.status ≠ .busy) (b : Byte) :
    e.push b = e.setPort e.port.misuse := by
  rw [Enc.push, if_neg hb]

/-- ENC_PUSH while the run extends and more is to come: the byte joins the run and nothing is emitted. -/
theorem Enc.push_extends {b : Byte} {e : Enc} (hb : e.port.status = .busy) (hf : foundBit b e = true)
    (hl : e.i + 1 ≠ e.n) : e.push b = e.afterByte e.sb (e.cc ++ [b]) [] := by
  have hpre := Enc.beforeEvict_extends (e := e.setPort e.port.clearOut) (b := b) hf (decide_eq_false hl)
  rw [Enc.push_of_busy hb, hpre, Enc.evict_advance_killBits]
  rfl

/-- ENC_PUSH when the run does not extend: the run is flushed and the byte begins a new one. -/
theorem Enc.push_flushes {b : Byte} {e : Enc} (hb : e.port.status = .busy) (hf : foundBit b e = false) :
    e.push b = e.afterByte (e.sb ++ e.cc) [b] (flushText e.cc e.sb) := by
  obtain ⟨f, hpre⟩ := Enc.beforeEvict_flushes (e := e.setPort e.port.clearOut) (b := b) hf
  rw [Enc.push_of_busy hb, hpre, Enc.evict_advance_killBits]
  rfl

/-- ENC_PUSH when the run extends with the frame's last byte: the run and the byte are flushed together. -/
theorem Enc.push_absorbs {b : Byte} {e : Enc} (hb : e.port.status = .busy) (hf : foundBit b e = true)
    (hl : e.i + 1 = e.n) : e.push b = e.afterByte (e.sb ++ (e.cc ++ [b])) [] (flushText (e.cc ++ [b]) e.sb) := by
  obtain ⟨f, hpre⟩ := Enc.beforeEvict_absorbs (e := e.setPort e.port.clearOut) (b := b) hf (decide_eq_true hl)
  rw [Enc.push_of_busy hb, hpre, Enc.evict_advance_killBits]
  rfl

/-- What an ENC_PUSH emits: at most the run and its own byte. -/
theorem Enc.length_push_dout_le (b : Byte) (e : Enc) : (e.push b).port.dout.length ≤ e.cc.length + 1 := by
  have hrun := length_flushText_le e.cc e.sb
  have hrunb := length_flushText_le (e.cc ++ [b]) e.sb
  simp only [List.length_append, List.length_singleton] at hrunb
  by_cases hb : e.port.status = .busy
  · by_cases hf : foundBit b e = true
    · by_cases hl : e.i + 1 = e.n
      · simpa [Enc.push_absorbs hb hf hl, Enc.afterByte, hl] using hrunb
      · simp [Enc.push_extends hb hf hl, Enc.afterByte, hl]
    · rw [Bool.not_eq_true] at hf
      by_cases hl : e.i + 1 = e.n
      · simpa [Enc.push_flushes hb hf, Enc.afterByte, hl] using hrun
      · simp only [Enc.push_flushes hb hf, Enc.afterByte, hl, if_false]; omega
  · simp [Enc.push_of_not_busy hb]

/-- Settles O27: a push emits at most its run and its own byte, and in a state that meets the invariant the run is no longer
than the window. -/
theorem encPushEmitsLittle : Obligations.EncPushEmitsLittle := by
  intro b s t hinv ht
  obtain rfl := Host.Outcome.next.inj ht
  obtain ⟨-, hrun⟩ := hinv.enc.bounded
  exact (s.enc.length_push_dout_le b).trans (Nat.add_le_add_right hrun 1)

/-! ### Unit E keeps its invariant -/

/-- Unit E after reset (10_state R33). -/
theorem Enc.reset_inv (cfg : Config) : Enc.reset.Inv cfg where
  port := by decide
  codes := by decide
  bits := by decide
  bounded := by decide
  range := ⟨le_rfl, Nat.two_pow_pos _, by decide, .inr ⟨rfl, rfl, rfl⟩⟩
  status := ⟨fun _ => rfl, fun h => (nomatch h), fun h => (nomatch h)⟩

/-- A unit in FAULT with one of its own codes: only the clauses that hold in every status are left to show. -/
theorem Enc.inv_of_fault {cfg : Config} {e : Enc} (hs : e.port.status = .fault)
    (hf : e.port.fault = .fInvalidArg ∨ e.port.fault = .fProtocol) (hbits : e.BitsDead) (hsize : e.Bounded)
    (hrange : e.InRange cfg) : e.Inv cfg where
  port := by obtain h | h := hf <;> simp [Port.Consistent, hs, h]
  codes := by obtain h | h := hf <;> simp [h]
  bits := hbits
  bounded := hsize
  range := hrange
  status := by simp [Enc.StatusInv, hs]

/-- A unit inside a frame, or at its end, with no fault (10_state R11): the status says which. -/
theorem Enc.inv_of_frame {cfg : Config} {e : Enc} (hs : e.port.status = if e.i = e.n then .done else .busy)
    (hf : e.port.fault = .fNone) (hbits : e.BitsDead) (hsize : e.Bounded) (hi : e.i ≤ e.n) (hn : e.n < 2 ^ cfg.idxW)
    (hw : 1 ≤ e.w) (hmax : e.w ≤ cfg.wMax) (hdone : e.i = e.n → e.cc = [])
    (hbusy : e.i ≠ e.n → (e.cc = [] ↔ e.i = 0) ∧ e.sb.length + e.cc.length ≤ e.i) : e.Inv cfg where
  port := by simp only [Port.Consistent, hs, hf]; split <;> simp
  codes := by simp [hf]
  bits := hbits
  bounded := hsize
  range := ⟨hi, hn, hw, .inl hmax⟩
  status := by
    by_cases h : e.i = e.n
    · simpa [Enc.StatusInv, hs, h, hmax] using hdone h
    · simpa [Enc.StatusInv, hs, h, hmax, Nat.lt_of_le_of_ne hi h] using hbusy h

/-- In a unit with a recorded fault the code is one of unit E's own (60_exceptions R160). -/
theorem Enc.Inv.fault_code {cfg : Config} {e : Enc} (h : e.Inv cfg) (hs : e.port.status = .fault) :
    e.port.fault = .fInvalidArg ∨ e.port.fault = .fProtocol := by
  have hnone := h.port.mp hs
  obtain ⟨hparse, hcap⟩ := h.codes
  cases hf : e.port.fault <;> simp_all

/-- A reserved code, or a PUSH with no frame open (60_exceptions R164, R168). -/
theorem Enc.Inv.misuse {cfg : Config} {e : Enc} (h : e.Inv cfg) : (e.setPort e.port.misuse).Inv cfg := by
  refine Enc.inv_of_fault (by simp) ?_ h.bits h.bounded h.range
  by_cases hs : e.port.status = .fault
  · simpa [hs] using h.fault_code hs
  · simp [hs]

/-- ENC_START with a length that fits its field, whether the window is accepted or not (41_encoder R101). -/
theorem Enc.Inv.start {cfg : Config} {e : Enc} (h : e.Inv cfg) (w : Nat) {n : Nat} (hn : n < 2 ^ cfg.idxW) :
    (e.start cfg w n).Inv cfg := by
  by_cases hw : w = 0 ∨ cfg.wMax < w
  · rw [Enc.start_refused hw]
    obtain ⟨-, hold, hw1, hwin⟩ := h.range
    refine Enc.inv_of_fault rfl (.inl rfl) ⟨rfl, rfl, rfl, rfl⟩ ⟨Nat.zero_le _, Nat.zero_le _⟩
      ⟨Nat.zero_le _, hold, hw1, ?_⟩
    exact hwin.imp id fun hdef => ⟨hdef.1, rfl, rfl⟩
  · have hpos : 1 ≤ w := by omega
    have hmax : w ≤ cfg.wMax := by omega
    rw [Enc.start_accepted hpos hmax]
    exact Enc.inv_of_frame (by simp [eq_comm]) rfl ⟨rfl, rfl, rfl, rfl⟩ ⟨Nat.zero_le _, Nat.zero_le _⟩ (Nat.zero_le _) hn
      hpos hmax (fun _ => rfl) (fun _ => ⟨by simp, le_rfl⟩)

/-- After a byte of an open frame the invariant is a matter of the buffers before E.EVICT: with the frame's last byte the
search buffer may be one byte above `2*W`, which E.EVICT takes; with any other byte the run is not empty, no longer than the
window, and what stays is at most `2*W` bytes and no more than were pushed. -/
theorem Enc.Inv.afterByte {cfg : Config} {e : Enc} (h : e.Inv cfg) (hb : e.port.status = .busy) {sb cc : List Byte}
    (text : List Byte) (hlast : e.i + 1 = e.n → sb.length ≤ 2 * e.w + 1)
    (hmore : e.i + 1 ≠ e.n → cc ≠ [] ∧ cc.length ≤ e.w ∧ (trim e.w sb).length + cc.length ≤ min (2 * e.w) (e.i + 1)) :
    (e.afterByte sb cc text).Inv cfg := by
  obtain ⟨-, hbusy, -⟩ := h.status
  obtain ⟨hi, hmax, -, -⟩ := hbusy hb
  obtain ⟨-, hn, hw, -⟩ := h.range
  have hfault : e.port.fault = .fNone := by simpa [Port.Consistent, hb] using h.port
  by_cases hl : e.i + 1 = e.n
  · refine Enc.inv_of_frame (by simp [Enc.afterByte, hl]) hfault ⟨rfl, rfl, rfl, rfl⟩ ?_ hl.le hn hw hmax
      (fun _ => if_pos hl) (fun hne => absurd hl hne)
    have hsize := hlast hl
    simp only [Enc.Bounded, Enc.afterByte, if_pos hl, length_trim, List.length_nil]
    split <;> omega
  · obtain ⟨hcc, hrun, hsize⟩ := hmore hl
    refine Enc.inv_of_frame (by simp [Enc.afterByte, hl, hb]) hfault ⟨rfl, rfl, rfl, rfl⟩ ?_ hi hn hw hmax
      (fun heq => absurd heq hl) (fun _ => ?_)
    · simp only [Enc.Bounded, Enc.afterByte, if_neg hl]
      omega
    · simp only [Enc.afterByte, if_neg hl, hcc, false_iff]
      omega

/-- ENC_PUSH in every status. While the run extends it is shorter than the search buffer, so `|E.SB| + |E.CC| <= 2*W` leaves
room for one more byte in it; a flush only moves the run, and the byte is the one more that E.EVICT makes up for
(41_encoder R121, R122). -/
theorem Enc.Inv.push {cfg : Config} {e : Enc} (h : e.Inv cfg) (b : Byte) : (e.push b).Inv cfg := by
  by_cases hb : e.port.status = .busy
  · obtain ⟨hsize, hrun⟩ := h.bounded
    obtain ⟨-, -, hw, -⟩ := h.range
    obtain ⟨-, hbusy, -⟩ := h.status
    obtain ⟨-, -, -, hpushed⟩ := hbusy hb
    by_cases hf : foundBit b e = true
    · have hlt := length_lt_of_foundBit hf
      by_cases hl : e.i + 1 = e.n
      · rw [Enc.push_absorbs hb hf hl]
        refine h.afterByte hb _ (fun _ => ?_) (fun hne => absurd hl hne)
        simp only [List.length_append, List.length_singleton]
        omega
      · rw [Enc.push_extends hb hf hl]
        refine h.afterByte hb _ (fun heq => absurd heq hl) (fun _ => ⟨by simp, ?_⟩)
        simp only [length_trim, List.length_append, List.length_singleton]
        split <;> omega
    · rw [Enc.push_flushes hb (eq_false_of_ne_true hf)]
      refine h.afterByte hb _ (fun _ => ?_) (fun _ => ⟨by simp, ?_⟩)
      · simp only [List.length_append]
        omega
      · simp only [length_trim, List.length_append, List.length_singleton]
        split <;> omega
  · rw [Enc.push_of_not_busy hb]
    exact h.misuse

/-! ### What the byte of a DEC_PUSH does -/

/-- Unit D after a byte's action that took no fault, left the parser in `st`, the digit buffers `ob` and `lb`, and produced
`bytes` (42_decoder R133 to R138). -/
def Dec.took (st : ParserState) (ob lb bytes : List Byte) (d : Dec) : Dec :=
  { d with state := st, ob := ob, lb := lb, out := d.out ++ bytes, port := d.port.emitSeq bytes }

/-- D.COPY with room for what it copies (42_decoder R136). -/
theorem Dec.copyUnit_of_fits {cap : Option Nat} {o l : Nat} {d : Dec}
    (h : fitsCap cap (d.out.length + min l (min o d.out.length)) = true) :
    d.copyUnit cap o l = .go (d.took d.state d.ob d.lb (d.referenced o l)) := by
  have hfits : fitsCap cap (d.out.length + d.copyCount o l) = true := h
  have hstretch : d.out.length - d.window o + d.copyCount o l ≤ d.out.length := by
    simp only [Dec.copyCount, Dec.window]; omega
  rw [Dec.copyUnit, if_pos hfits, Dec.copyLoop_eq _ _ _ hstretch]
  rfl

/-- D.COPY without it (42_decoder R136, R163). -/
theorem Dec.copyUnit_of_full {cap : Option Nat} {o l : Nat} {d : Dec}
    (h : fitsCap cap (d.out.length + min l (min o d.out.length)) = false) :
    d.copyUnit cap o l = .stop (d.raise .fCapacity) :=
  if_neg (ne_true_of_eq_false h)

/-- The copied bytes are as many as D.COPY counts. -/
theorem Dec.length_referenced (o l : Nat) (d : Dec) : (d.referenced o l).length = min l (min o d.out.length) := by
  simp only [Dec.referenced, List.length_take, List.length_drop]
  omega

/-- The byte 0x3C in any parser state (42_decoder R133). -/
theorem Dec.action_markOpen (cap : Option Nat) (d : Dec) : d.action cap markOpen = .go (d.took .offset [] [] []) := by
  simp [Dec.action, Dec.tokOpen, Dec.took, Port.emitSeq]

/-- The byte 0x2C inside a token (42_decoder R134). -/
theorem Dec.action_markSep {cap : Option Nat} {d : Dec} (h : d.state ≠ .outside) :
    d.action cap markSep = .go (d.took .length d.ob d.lb []) := by
  simp [Dec.action, Dec.tokSep, Dec.took, Port.emitSeq, h, markOpen, markSep]

/-- The byte 0x3E inside a token (42_decoder R135). -/
theorem Dec.action_markClose {cap : Option Nat} {d : Dec} (h : d.state ≠ .outside) :
    d.action cap markClose = d.tokClose cap := by
  simp [Dec.action, h, markOpen, markSep, markClose]

/-- Any other byte inside a token (42_decoder R137). -/
theorem Dec.action_char {cap : Option Nat} {b : Byte} {d : Dec} (h : d.state ≠ .outside)
    (hb : b ≠ markOpen ∧ b ≠ markSep ∧ b ≠ markClose) : d.action cap b = .go (d.tokChar b) := by
  simp [Dec.action, h, hb]

/-- Any byte but 0x3C outside a token (42_decoder R138). -/
theorem Dec.action_literal {cap : Option Nat} {b : Byte} {d : Dec} (h : d.state = .outside) (hb : b ≠ markOpen) :
    d.action cap b = d.lit cap b := by
  simp [Dec.action, h, hb]

/-- D.TOK_CHAR inside a token: the byte joins the buffer of the field being read (42_decoder R137). -/
theorem Dec.tokChar_offset {b : Byte} {d : Dec} (h : d.state = .offset) :
    d.tokChar b = d.took .offset (d.ob ++ [b]) d.lb [] := by
  simp [Dec.tokChar, Dec.took, Port.emitSeq, append, h]

theorem Dec.tokChar_length {b : Byte} {d : Dec} (h : d.state = .length) :
    d.tokChar b = d.took .length d.ob (d.lb ++ [b]) [] := by
  simp [Dec.tokChar, Dec.took, Port.emitSeq, append, h]

/-- D.LIT with room for its byte (42_decoder R138). -/
theorem Dec.lit_of_fits {cap : Option Nat} {d : Dec} (h : fitsCap cap (d.out.length + 1) = true) (b : Byte) :
    d.lit cap b = .go (d.took d.state d.ob d.lb [b]) := if_pos h

/-- D.LIT without it (42_decoder R138, R163). -/
theorem Dec.lit_of_full {cap : Option Nat} {d : Dec} (h : fitsCap cap (d.out.length + 1) = false) (b : Byte) :
    d.lit cap b = .stop (d.raise .fCapacity) := if_neg (ne_true_of_eq_false h)

/-- D.TOK_CLOSE with a field that is no number (42_decoder R135, R162). -/
theorem Dec.tokClose_of_malformed {cap : Option Nat} {d : Dec} (h : (isnum d.ob && isnum d.lb) = false) :
    d.tokClose cap = .stop (d.raise .fParse) := if_neg (ne_true_of_eq_false h)

/-- D.TOK_CLOSE with two numbers and room for the copy (42_decoder R135, R136). -/
theorem Dec.tokClose_of_fits {cap : Option Nat} {d : Dec} (h : (isnum d.ob && isnum d.lb) = true)
    (hfits : fitsCap cap (d.out.length + min (val d.lb) (min (val d.ob) d.out.length)) = true) :
    d.tokClose cap = .go (d.took .outside [] [] (d.referenced (val d.ob) (val d.lb))) := by
  rw [Dec.tokClose, if_pos h, Dec.copyUnit_of_fits hfits]
  rfl

/-- D.TOK_CLOSE with two numbers and no room for the copy (42_decoder R135, R136, R163). -/
theorem Dec.tokClose_of_full {cap : Option Nat} {d : Dec} (h : (isnum d.ob && isnum d.lb) = true)
    (hfull : fitsCap cap (d.out.length + min (val d.lb) (min (val d.ob) d.out.length)) = false) :
    d.tokClose cap = .stop (d.raise .fCapacity) := by
  rw [Dec.tokClose, if_pos h, Dec.copyUnit_of_full hfull]
  rfl

/-- What a byte's action keeps when it takes no fault: the parser's invariants, and a history that fits. -/
structure Dec.Keeps (cap : Option Nat) (d d' : Dec) : Prop where
  parser  : d.ParserInv → d'.ParserInv
  history : fitsCap cap d.out.length = true → fitsCap cap d'.out.length = true

/-- A byte that is no mark may join a digit buffer. -/
theorem noMarks_append {bs : List Byte} {b : Byte} (h : noMarks bs) (hb : b ≠ markOpen ∧ b ≠ markSep ∧ b ≠ markClose) :
    noMarks (bs ++ [b]) := by
  intro c hc
  obtain hc | hc := List.mem_append.mp hc
  · exact h c hc
  · exact List.mem_singleton.mp hc ▸ hb

/-- All a stream byte can do: raise F_PARSE or F_CAPACITY, or go on as `Dec.took` says (42_decoder R133 to R138). -/
theorem Dec.action_cases (cap : Option Nat) (b : Byte) (d : Dec) :
    (∃ f, (f = .fParse ∨ f = .fCapacity) ∧ d.action cap b = .stop (d.raise f)) ∨
    (∃ st ob lb bytes, d.action cap b = .go (d.took st ob lb bytes) ∧ d.Keeps cap (d.took st ob lb bytes)) := by
  by_cases hopen : b = markOpen
  · subst hopen
    exact .inr ⟨_, _, _, _, d.action_markOpen cap, by simp [Dec.took, Dec.ParserInv, noMarks], by simp [Dec.took]⟩
  by_cases hout : d.state = .outside
  · rw [Dec.action_literal hout hopen]
    by_cases hfits : fitsCap cap (d.out.length + 1) = true
    · exact .inr ⟨_, _, _, _, Dec.lit_of_fits hfits b, id, by simpa [Dec.took] using fun _ => hfits⟩
    · exact .inl ⟨_, .inr rfl, Dec.lit_of_full (eq_false_of_ne_true hfits) b⟩
  by_cases hsep : b = markSep
  · subst hsep
    exact .inr ⟨_, _, _, _, Dec.action_markSep hout, fun h => ⟨nofun, nofun, h.2.2⟩, by simp [Dec.took]⟩
  by_cases hclose : b = markClose
  · subst hclose
    rw [Dec.action_markClose hout]
    by_cases hnum : (isnum d.ob && isnum d.lb) = true
    · by_cases hfits : fitsCap cap (d.out.length + min (val d.lb) (min (val d.ob) d.out.length)) = true
      · refine .inr ⟨_, _, _, _, Dec.tokClose_of_fits hnum hfits, by simp [Dec.took, Dec.ParserInv, noMarks], ?_⟩
        simpa [Dec.took, Dec.length_referenced] using fun _ => hfits
      · exact .inl ⟨_, .inr rfl, Dec.tokClose_of_full hnum (eq_false_of_ne_true hfits)⟩
    · exact .inl ⟨_, .inl rfl, Dec.tokClose_of_malformed (eq_false_of_ne_true hnum)⟩
  have hb : b ≠ markOpen ∧ b ≠ markSep ∧ b ≠ markClose := ⟨hopen, hsep, hclose⟩
  rw [Dec.action_char hout hb]
  cases hst : d.state with
  | outside => exact absurd hst hout
  | offset =>
    rw [Dec.tokChar_offset hst]
    refine .inr ⟨_, _, _, _, rfl, fun ⟨_, hlb, hob, hmarks⟩ => ?_, by simp [Dec.took]⟩
    exact ⟨nofun, fun _ => hlb hst, noMarks_append hob hb, hmarks⟩
  | length =>
    rw [Dec.tokChar_length hst]
    refine .inr ⟨_, _, _, _, rfl, fun ⟨_, _, hob, hlb⟩ => ?_, by simp [Dec.took]⟩
    exact ⟨nofun, nofun, hob, noMarks_append hlb hb⟩

/-! ### What DEC_PUSH leaves -/

/-- DEC_PUSH in status BUSY of a byte whose action takes no fault (42_decoder R132, R139). -/
theorem Dec.push_of_go {cap : Option Nat} {b : Byte} {d : Dec} {st : ParserState} {ob lb bytes : List Byte}
    (hb : d.port.status = .busy)
    (h : (d.setPort d.port.clearOut).action cap b = .go ((d.setPort d.port.clearOut).took st ob lb bytes)) :
    d.push cap b = d.afterByte st ob lb bytes := by
  rw [Dec.push, if_pos hb, Dec.turn, h]
  by_cases hl : d.i + 1 = d.n <;>
    simp [Dec.advance, Dec.endOfInput, Dec.took, Dec.afterByte, Port.emitSeq, Dec.setPort, Port.clearOut, hl]

/-- DEC_PUSH in status BUSY of a byte whose action takes a fault (60_exceptions R166). -/
theorem Dec.push_of_stop {cap : Option Nat} {b : Byte} {d : Dec} {f : FaultCode} (hb : d.port.status = .busy)
    (h : (d.setPort d.port.clearOut).action cap b = .stop ((d.setPort d.port.clearOut).raise f)) :
    d.push cap b = d.faulted f := by
  rw [Dec.push, if_pos hb, Dec.turn, h]
  rfl

/-- DEC_PUSH in any other status. -/
theorem Dec.push_of_not_busy {cap : Option Nat} {b : Byte} {d : Dec} (hb : d.port.status ≠ .busy) :
    d.push cap b = d.setPort d.port.misuse := by
  rw [Dec.push, if_neg hb]

/-- All a DEC_PUSH in status BUSY can do. -/
theorem Dec.push_busy_cases (cap : Option Nat) (b : Byte) {d : Dec} (hb : d.port.status = .busy) :
    (∃ f, (f = .fParse ∨ f = .fCapacity) ∧ d.push cap b = d.faulted f) ∨
    (∃ st ob lb bytes, d.push cap b = d.afterByte st ob lb bytes ∧ d.Keeps cap (d.took st ob lb bytes)) := by
  obtain ⟨f, hf, hact⟩ | ⟨st, ob, lb, bytes, hact, hkeeps⟩ := (d.setPort d.port.clearOut).action_cases cap b
  · exact .inl ⟨f, hf, Dec.push_of_stop hb hact⟩
  · exact .inr ⟨st, ob, lb, bytes, Dec.push_of_go hb hact, hkeeps.parser, hkeeps.history⟩

/-- Settles O32: a byte's action appends to the history what it emits, and a fault or a misuse neither appends nor emits. -/
theorem historyIsWhatWasEmitted : Obligations.HistoryIsWhatWasEmitted := by
  intro b s t ht
  obtain rfl := Host.Outcome.next.inj ht
  rw [State.setDec_dec]
  by_cases hb : s.dec.port.status = .busy
  · obtain ⟨f, -, hpush⟩ | ⟨st, ob, lb, bytes, hpush, -⟩ := Dec.push_busy_cases s.cfg.outCap b hb
    · simp [hpush, Dec.faulted]
    · simp [hpush, Dec.afterByte]
  · simp [Dec.push_of_not_busy hb]

/-! ### Unit D keeps its invariant -/

theorem fitsCap_zero (cap : Option Nat) : fitsCap cap 0 = true := by
  cases cap <;> simp

/-- Unit D after reset (10_state R33). -/
theorem Dec.reset_inv (cfg : Config) : Dec.reset.Inv cfg where
  port := by decide
  codes := by decide
  parser := by simp [Dec.ParserInv, noMarks, Dec.reset]
  range := ⟨le_rfl, Nat.two_pow_pos _⟩
  history := fitsCap_zero _
  status := ⟨fun _ => rfl, nofun, nofun⟩

/-- A fault writes the port only (60_exceptions R166), so the clauses on the rest of the unit stay. -/
theorem Dec.Inv.setPort_fault {cfg : Config} {d : Dec} (h : d.Inv cfg) {p : Port} (hs : p.status = .fault)
    (hnone : p.fault ≠ .fNone) (harg : p.fault ≠ .fInvalidArg) : (d.setPort p).Inv cfg where
  port := by simp [Port.Consistent, hs, hnone]
  codes := harg
  parser := h.parser
  range := h.range
  history := h.history
  status := by simp [Dec.StatusInv, hs]

/-- A reserved code, or a PUSH with no frame open (60_exceptions R164, R168). -/
theorem Dec.Inv.misuse {cfg : Config} {d : Dec} (h : d.Inv cfg) : (d.setPort d.port.misuse).Inv cfg := by
  by_cases hs : d.port.status = .fault
  · exact h.setPort_fault (by simp) (by simpa [hs] using h.port.mp hs) (by simpa [hs] using h.codes)
  · exact h.setPort_fault (by simp) (by simp [hs]) (by simp [hs])

/-- DEC_START with a length that fits its field (42_decoder R131). -/
theorem Dec.start_inv {cfg : Config} {n : Nat} (hn : n < 2 ^ cfg.idxW) (d : Dec) : (d.start n).Inv cfg where
  port := by by_cases h : n = 0 <;> simp [Port.Consistent, Dec.start, h]
  codes := by simp [Dec.start]
  parser := by simp [Dec.ParserInv, noMarks, Dec.start]
  range := ⟨Nat.zero_le _, hn⟩
  history := fitsCap_zero _
  status := by
    by_cases h : n = 0
    · simp [Dec.StatusInv, Dec.start, h]
    · simpa [Dec.StatusInv, Dec.start, h] using Nat.pos_of_ne_zero h

/-- After a byte of an open frame the parser and the history are as its action kept them; the end of the frame only
empties the digit buffers (42_decoder R139, R151). -/
theorem Dec.Inv.afterByte {cfg : Config} {d : Dec} (h : d.Inv cfg) (hb : d.port.status = .busy) {st : ParserState}
    {ob lb bytes : List Byte} (hkeeps : d.Keeps cfg.outCap (d.took st ob lb bytes)) :
    (d.afterByte st ob lb bytes).Inv cfg := by
  obtain ⟨-, hbusy, -⟩ := h.status
  have hi : d.i < d.n := hbusy hb
  have hfault : d.port.fault = .fNone := by simpa [Port.Consistent, hb] using h.port
  obtain ⟨hout, hoff, hob, hlb⟩ := hkeeps.parser h.parser
  refine ⟨?_, h.codes, ?_, ⟨hi, h.range.2⟩, hkeeps.history h.history, ?_⟩
  · by_cases hl : d.i + 1 = d.n <;> simp [Port.Consistent, Dec.afterByte, hl, hb, hfault]
  · by_cases hl : d.i + 1 = d.n
    · simp [Dec.ParserInv, Dec.afterByte, hl, noMarks]
    · simpa only [Dec.ParserInv, Dec.afterByte, if_neg hl] using ⟨hout, hoff, hob, hlb⟩
  · by_cases hl : d.i + 1 = d.n
    · simp [Dec.StatusInv, Dec.afterByte, hl]
    · simpa [Dec.StatusInv, Dec.afterByte, hl, hb] using Nat.lt_of_le_of_ne hi hl

/-- DEC_PUSH in every status (42_decoder R132). -/
theorem Dec.Inv.push {cfg : Config} {d : Dec} (h : d.Inv cfg) (b : Byte) : (d.push cfg.outCap b).Inv cfg := by
  by_cases hb : d.port.status = .busy
  · obtain ⟨f, hf, hpush⟩ | ⟨st, ob, lb, bytes, hpush, hkeeps⟩ := Dec.push_busy_cases cfg.outCap b hb
    · rw [hpush]
      obtain rfl | rfl := hf <;> exact h.setPort_fault rfl nofun nofun
    · rw [hpush]
      exact h.afterByte hb hkeeps
  · rw [Dec.push_of_not_busy hb]
    exact h.misuse

/-! ### The machine keeps its invariant -/

theorem State.Inv.setEnc {s : State} (h : s.Inv) {e : Enc} (he : e.Inv s.cfg) : (s.setEnc e).Inv :=
  ⟨h.legal, he, h.dec, h.matcher⟩

theorem State.Inv.setDec {s : State} (h : s.Inv) {d : Dec} (hd : d.Inv s.cfg) : (s.setDec d).Inv :=
  ⟨h.legal, h.enc, hd, h.matcher⟩

/-- What the host issues stands in no clause of the invariant. -/
theorem State.Inv.setCmds {s : State} (h : s.Inv) (c : List HostInput) : (s.setCmds c).Inv :=
  ⟨h.legal, h.enc, h.dec, h.matcher⟩

/-- A machine right after reset, whatever legal parameters it was built with. -/
theorem State.resetWith_inv {cfg : Config} (h : cfg.Legal) : (State.resetWith cfg).Inv :=
  ⟨h, Enc.reset_inv cfg, Dec.reset_inv cfg, rfl⟩

/-- Settles O48: the parameters the hardware was built with are legal. -/
theorem resetMeetsInvariant : Obligations.ResetMeetsInvariant := State.resetWith_inv Config.build_legal

/-- Power-on reset of a running machine (70_reset_and_hazards R190). -/
theorem State.Inv.powerOn {s : State} (h : s.Inv) : s.powerOn.Inv := (State.resetWith_inv h.legal).setCmds s.cmds

/-- Every host command whose operands fit their fields keeps the invariant. -/
theorem State.Inv.exec_command {s t : State} (h : s.Inv) {i : Instr} (hc : i.isCommand = true)
    (hwf : i.wellFormed s.cfg.idxW = true) (ht : exec i s = .next t) : t.Inv := by
  cases i with
  | encStart w n =>
    obtain ⟨-, hn⟩ : w < 2 ^ s.cfg.idxW ∧ n < 2 ^ s.cfg.idxW := by simpa [Instr.wellFormed] using hwf
    obtain rfl := Host.Outcome.next.inj ht
    exact h.setEnc (h.enc.start w hn)
  | encPush b =>
    obtain rfl := Host.Outcome.next.inj ht
    exact h.setEnc (h.enc.push b)
  | decStart n =>
    obtain rfl := Host.Outcome.next.inj ht
    exact h.setDec (Dec.start_inv (by simpa [Instr.wellFormed] using hwf) s.dec)
  | decPush b =>
    obtain rfl := Host.Outcome.next.inj ht
    exact h.setDec (h.dec.push b)
  | reserved000 | reserved011 =>
    obtain rfl := Host.Outcome.next.inj ht
    exact h.setEnc h.enc.misuse
  | reserved100 | reserved111 =>
    obtain rfl := Host.Outcome.next.inj ht
    exact h.setDec h.dec.misuse
  | _ => cases hc

/-- Whatever the host does next, the invariant is kept: every word stands for a host command whose operands fit. -/
theorem State.Inv.takeInput {s t : State} (h : s.Inv) {x : HostInput} (ht : takeInput x s = .next t) : t.Inv := by
  cases x with
  | word w =>
    obtain ⟨hc, hwf⟩ := decodeCmd_command_wellFormed s.cfg.idxW (BitVec.ofNat (2 * s.cfg.idxW + 3) w)
    exact h.exec_command hc hwf ht
  | powerOn =>
    obtain rfl := Host.Outcome.next.inj ht
    exact h.powerOn

/-- Settles O49: a step with nothing issued changes nothing, and any other takes one input of the host. -/
theorem stepKeepsInvariant : Obligations.StepKeepsInvariant := by
  intro s t h ht
  cases hcmds : s.cmds with
  | nil =>
    have hidle : step s = .next s := by rw [step, hcmds]
    obtain rfl := Host.Outcome.next.inj (hidle.symm.trans ht)
    exact h
  | cons x rest => exact (h.setCmds rest).takeInput (step_of_cmds_cons hcmds ▸ ht)

end Sys2Proof.Machine

namespace Sys2Proof.Machine

/-! ### Rows of the two units in either order -/

/-- The two units are separate parts of the state, so writes to them may be exchanged (10_state R10, R32). -/
theorem State.setDec_setEnc_comm (e : Enc) (d : Dec) (s : State) :
    (s.setEnc e).setDec d = (s.setDec d).setEnc e := rfl

/-- Settles O51: neither row reads what the other writes, and the two writes may be exchanged. -/
theorem unitsCommute : Obligations.UnitsCommute := by
  intro i j s hi hj
  obtain ⟨f, hf⟩ := exec_of_unit_E hi
  obtain ⟨g, hg⟩ := exec_of_unit_D hj
  have hEthenD : exec j (s.setEnc (f s.cfg s.enc)) =
      .next ((s.setEnc (f s.cfg s.enc)).setDec (g s.cfg s.dec)) := by
    rw [hg, State.setEnc_cfg, State.setEnc_dec]
  have hDthenE : exec i (s.setDec (g s.cfg s.dec)) =
      .next ((s.setEnc (f s.cfg s.enc)).setDec (g s.cfg s.dec)) := by
    rw [hf, State.setDec_cfg, State.setDec_enc, State.setDec_setEnc_comm]
  exact ⟨_, _, _, hf s, hEthenD, hg s, hDthenE⟩

end Sys2Proof.Machine

namespace Sys2Proof.Machine

/-! ### The fields of a command word (30_encoding R60) -/

/-- The two immediates together fill the bits below `op`. -/
theorem immediates_lt {k a b : Nat} (ha : a < 2 ^ k) (hb : b < 2 ^ k) : a * 2 ^ k + b < 2 ^ (2 * k) := by
  calc a * 2 ^ k + b < (a + 1) * 2 ^ k := by rw [Nat.succ_mul]; omega
    _ ≤ 2 ^ k * 2 ^ k := Nat.mul_le_mul_right _ ha
    _ = 2 ^ (2 * k) := by rw [Nat.two_mul, pow_add]

/-- Three fields in range fit a command word: no bit is lost. -/
theorem toNat_cmdWord {k op a b : Nat} (ho : op < 8) (ha : a < 2 ^ k) (hb : b < 2 ^ k) :
    (cmdWord k op a b).toNat = op * 2 ^ (2 * k) + (a * 2 ^ k + b) := by
  have hlow := immediates_lt ha hb
  have hfits : op * 2 ^ (2 * k) + (a * 2 ^ k + b) < 2 ^ (2 * k + 3) := by
    have hop : op * 2 ^ (2 * k) ≤ 7 * 2 ^ (2 * k) := Nat.mul_le_mul_right _ (Nat.le_of_lt_succ ho)
    rw [pow_add]
    omega
  rw [cmdWord, BitVec.toNat_ofNat, Nat.add_assoc, Nat.mod_eq_of_lt hfits]

theorem cmdOp_cmdWord {k op a b : Nat} (ho : op < 8) (ha : a < 2 ^ k) (hb : b < 2 ^ k) :
    cmdOp k (cmdWord k op a b) = BitVec.ofNat 3 op := by
  apply BitVec.eq_of_toNat_eq
  rw [cmdOp, BitVec.extractLsb'_toNat, toNat_cmdWord ho ha hb, Nat.shiftRight_eq_div_pow, Nat.add_comm,
    Nat.add_mul_div_right _ _ (Nat.two_pow_pos _), Nat.div_eq_of_lt (immediates_lt ha hb), Nat.zero_add, BitVec.toNat_ofNat]

/-- The three fields read from the low end on. -/
theorem fields_from_B (k op a b : Nat) : op * 2 ^ (2 * k) + (a * 2 ^ k + b) = b + 2 ^ k * (a + 2 ^ k * op) := by
  rw [Nat.two_mul, pow_add]
  ring

theorem cmdA_cmdWord {k op a b : Nat} (ho : op < 8) (ha : a < 2 ^ k) (hb : b < 2 ^ k) :
    cmdA k (cmdWord k op a b) = a := by
  rw [cmdA, BitVec.extractLsb'_toNat, toNat_cmdWord ho ha hb, Nat.shiftRight_eq_div_pow, fields_from_B,
    Nat.add_mul_div_left _ _ (Nat.two_pow_pos k), Nat.div_eq_of_lt hb, Nat.zero_add, Nat.add_mul_mod_self_left,
    Nat.mod_eq_of_lt ha]

theorem cmdB_cmdWord {k op a b : Nat} (ho : op < 8) (ha : a < 2 ^ k) (hb : b < 2 ^ k) :
    cmdB k (cmdWord k op a b) = b := by
  rw [cmdB, BitVec.extractLsb'_toNat, toNat_cmdWord ho ha hb, Nat.shiftRight_zero, fields_from_B, Nat.add_mul_mod_self_left,
    Nat.mod_eq_of_lt hb]

/-- The row of R61 or R63 an operation code names, with the fields it reads. -/
def commandOf (op a b : Nat) : Instr :=
  match op with
  | 0 => .reserved000
  | 1 => .encStart a b
  | 2 => .encPush (BitVec.ofNat 8 b)
  | 3 => .reserved011
  | 4 => .reserved100
  | 5 => .decStart b
  | 6 => .decPush (BitVec.ofNat 8 b)
  | _ => .reserved111

/-- A command word is decoded by its operation code and by nothing it ignores (30_encoding R61, R62, R63). -/
theorem decodeCmd_cmdWord {k op a b : Nat} (ho : op < 8) (ha : a < 2 ^ k) (hb : b < 2 ^ k) :
    decodeCmd k (cmdWord k op a b) = commandOf op a b := by
  rw [decodeCmd, cmdOp_cmdWord ho ha hb, cmdA_cmdWord ho ha hb, cmdByte, cmdB_cmdWord ho ha hb]
  interval_cases op <;> rfl

/-- Settles O3: by the row of its operation code. -/
theorem operationCodesAndIgnoredBits : Obligations.OperationCodesAndIgnoredBits := by
  intro k op a b ho ha hb
  rw [decodeCmd_cmdWord ho ha hb]
  refine ⟨?_, ?_, ?_, ?_, ?_, ?_, ?_, ?_⟩ <;> rintro rfl <;> rfl

/-- Settles O2: the word of each command has its fields in range, so `decodeCmd_cmdWord` reads them back. -/
theorem commandRoundTrip : Obligations.CommandRoundTrip := by
  intro k i hc hwf
  have hzero : 0 < 2 ^ k := Nat.two_pow_pos k
  cases i with
  | encStart w n =>
    obtain ⟨hw, hn⟩ : w < 2 ^ k ∧ n < 2 ^ k := by simpa [Instr.wellFormed] using hwf
    exact ⟨_, if_pos hwf, decodeCmd_cmdWord (by decide) hw hn⟩
  | encPush b | decPush b =>
    have hb : b.toNat < 2 ^ k := by simpa [Instr.wellFormed] using hwf
    refine ⟨_, if_pos hwf, (decodeCmd_cmdWord (by decide) hzero hb).trans ?_⟩
    rw [commandOf, BitVec.ofNat_toNat, BitVec.setWidth_eq]
  | decStart n =>
    have hn : n < 2 ^ k := by simpa [Instr.wellFormed] using hwf
    exact ⟨_, if_pos hwf, decodeCmd_cmdWord (by decide) hzero hn⟩
  | reserved000 | reserved011 | reserved100 | reserved111 =>
    exact ⟨_, if_pos hwf, decodeCmd_cmdWord (by decide) hzero hzero⟩
  | _ => cases hc

/-- Settles O1: the eight words are closed, so the decoder is run on them. -/
theorem commandWordsFromTheSpec : Obligations.CommandWordsFromTheSpec := by
  unfold Obligations.CommandWordsFromTheSpec
  decide

end Sys2Proof.Machine

namespace Sys2Proof.Machine

/-! ### Decimal text (30_encoding R70, R71) -/

theorem toNat_digitByte {n : Nat} (h : n ≤ 9) : (digitByte n).toNat = 0x30 + n := by
  rw [digitByte, BitVec.toNat_ofNat]
  omega

theorem isDigit_digitByte {n : Nat} (h : n ≤ 9) : isDigit (digitByte n) = true := by
  simp only [isDigit, toNat_digitByte h, Bool.and_eq_true, decide_eq_true_eq]
  omega

theorem digitVal_digitByte {n : Nat} (h : n ≤ 9) : digitVal (digitByte n) = n := by
  rw [digitVal, toNat_digitByte h, Nat.add_sub_cancel_left]

/-- No mark of the grammar is a digit (30_encoding R66). -/
theorem ne_marks_of_isDigit {b : Byte} (h : isDigit b = true) : b ≠ markOpen ∧ b ≠ markSep ∧ b ≠ markClose := by
  refine ⟨?_, ?_, ?_⟩ <;> rintro rfl <;> exact absurd h (by decide)

/-- Two bounds on the divisions that both reach the last digit spell the same text. -/
theorem decFuel_eq_decFuel {f g n : Nat} (hf : n ≤ f) (hg : n ≤ g) : decFuel f n = decFuel g n := by
  induction f generalizing g n with
  | zero =>
    obtain rfl : n = 0 := Nat.le_zero.mp hf
    cases g <;> rfl
  | succ f ih =>
    cases g with
    | zero =>
      obtain rfl : n = 0 := Nat.le_zero.mp hg
      rfl
    | succ g =>
      have hrest : decFuel f (n / 10) = decFuel g (n / 10) := ih (by omega) (by omega)
      rw [decFuel, decFuel, hrest]

/-- The first equation of R70. -/
theorem dec_of_le {n : Nat} (h : n ≤ 9) : dec n = [digitByte n] := by
  cases n with
  | zero => rfl
  | succ n => exact if_pos h

/-- The second equation of R70. -/
theorem dec_of_ge {n : Nat} (h : 10 ≤ n) : dec n = dec (n / 10) ++ [digitByte (n % 10)] := by
  cases n with
  | zero => omega
  | succ n =>
    have hfuel : decFuel n ((n + 1) / 10) = dec ((n + 1) / 10) := decFuel_eq_decFuel (by omega) le_rfl
    rw [← hfuel]
    exact if_neg (by omega)

/-- Induction along the two equations of R70. -/
theorem decimal_induction {P : Nat → Prop} (digit : ∀ n, n ≤ 9 → P n) (more : ∀ n, 10 ≤ n → P (n / 10) → P n)
    (n : Nat) : P n := by
  induction n using Nat.strongRecOn with
  | _ n ih =>
    by_cases h : n ≤ 9
    · exact digit n h
    · exact more n (by omega) (ih _ (by omega))

theorem dec_ne_nil (n : Nat) : dec n ≠ [] := by
  by_cases h : n ≤ 9
  · simp [dec_of_le h]
  · simp [dec_of_ge (Nat.lt_of_not_le h)]

theorem isDigit_of_mem_dec (n : Nat) : ∀ b ∈ dec n, isDigit b = true := by
  induction n using decimal_induction with
  | digit n h => simpa [dec_of_le h] using isDigit_digitByte h
  | more n h ih =>
    rw [dec_of_ge h]
    intro b hb
    obtain hb | hb := List.mem_append.mp hb
    · exact ih b hb
    · exact List.mem_singleton.mp hb ▸ isDigit_digitByte (by omega)

theorem isnum_iff {s : List Byte} : isnum s = true ↔ s ≠ [] ∧ ∀ b ∈ s, isDigit b = true := by
  simp [isnum]

/-- A spelled number is a number. -/
@[simp] theorem isnum_dec (n : Nat) : isnum (dec n) = true := isnum_iff.mpr ⟨dec_ne_nil n, isDigit_of_mem_dec n⟩

@[simp] theorem val_singleton (d : Byte) : val [d] = digitVal d := by simp [val]

/-- The recursion of `val` in R71. -/
theorem val_append_singleton (s : List Byte) (d : Byte) : val (s ++ [d]) = 10 * val s + digitVal d := by
  simp [val]

/-- A spelled number parses back. -/
@[simp] theorem val_dec (n : Nat) : val (dec n) = n := by
  induction n using decimal_induction with
  | digit n h => rw [dec_of_le h, val_singleton, digitVal_digitByte h]
  | more n h ih =>
    rw [dec_of_ge h, val_append_singleton, ih, digitVal_digitByte (by omega)]
    omega

/-- The spelling has one digit for each power of ten it reaches. -/
theorem length_dec (n : Nat) : (dec n).length = Nat.log 10 n + 1 := by
  induction n using decimal_induction with
  | digit n h => rw [dec_of_le h, Nat.log_of_lt (by omega), List.length_singleton]
  | more n h ih =>
    have hlog : 0 < Nat.log 10 n := Nat.log_pos (by decide) h
    rw [dec_of_ge h, List.length_append, ih, Nat.log_div_base, List.length_singleton]
    omega

/-- No leading zero. -/
theorem head?_dec_ne_zero (n : Nat) (hn : 1 ≤ n) : (dec n).head? ≠ some 0x30#8 := by
  induction n using decimal_induction with
  | digit n h =>
    have hne : digitByte n ≠ 0x30#8 := by
      intro heq
      have hval : 0x30 + n = 0x30 := (toNat_digitByte h).symm.trans (congrArg BitVec.toNat heq)
      omega
    simpa [dec_of_le h] using hne
  | more n h ih =>
    rw [dec_of_ge h, List.head?_append_of_ne_nil _ (dec_ne_nil _)]
    exact ih (by omega)

/-- Settles O6: the two equations are those of `dec`; the bounds are those of the logarithm its length is. -/
theorem decimalSpelling : Obligations.DecimalSpelling := by
  refine ⟨fun n => dec_of_le, fun n => dec_of_ge, fun n hn => ?_, head?_dec_ne_zero⟩
  rw [length_dec]
  exact ⟨Nat.pow_log_le_self 10 (by omega), Nat.lt_pow_succ_log_self (by decide) n⟩

/-- Settles O8: `val` undoes `dec`, so `dec` is injective. -/
theorem numbersRoundTrip : Obligations.NumbersRoundTrip :=
  ⟨fun n => ⟨isnum_dec n, val_dec n⟩, fun _ _ h => Function.LeftInverse.injective val_dec h⟩

/-- Settles O7: the equations of `val`'s fold, in which a leading zero adds nothing to 0. -/
theorem decimalParsing : Obligations.DecimalParsing := by
  refine ⟨fun s => ?_, val_singleton, val_append_singleton, fun s => rfl⟩
  simp [isnum_iff, isDigit]

/-- Settles O9: by the count of the token's bytes. -/
theorem tokenTextLength : Obligations.TokenTextLength := fun o l => ⟨rfl, length_tokenText o l⟩

/-! ### Tokens and literals read from the stream (30_encoding R65, R67) -/

theorem decodeToken_literal {b : Byte} (h : b ≠ markOpen) (rest : List Byte) :
    decodeToken (b :: rest) = .read (.lit b) rest := if_pos h

/-- A field of digits ends before the first byte that is none. -/
theorem takeWhile_dropWhile_digits {ds : List Byte} (hds : ∀ b ∈ ds, isDigit b = true) {m : Byte}
    (hm : isDigit m = false) (rest : List Byte) :
    (ds ++ m :: rest).takeWhile isDigit = ds ∧ (ds ++ m :: rest).dropWhile isDigit = m :: rest := by
  rw [List.takeWhile_append_of_pos hds, List.dropWhile_append_of_pos hds]
  simp [hm]

/-- Any two numbers, spelled with leading zeros or without, are the fields of a token. -/
theorem decodeToken_token {ds es : List Byte} (hds : isnum ds = true) (hes : isnum es = true) (rest : List Byte) :
    decodeToken (markOpen :: (ds ++ markSep :: (es ++ markClose :: rest))) = .read (.copy (val ds) (val es)) rest := by
  obtain ⟨hdne, hds⟩ := isnum_iff.mp hds
  obtain ⟨hene, hes⟩ := isnum_iff.mp hes
  obtain ⟨htakeD, hdropD⟩ := takeWhile_dropWhile_digits hds (m := markSep) rfl (es ++ markClose :: rest)
  obtain ⟨htakeE, hdropE⟩ := takeWhile_dropWhile_digits hes (m := markClose) rfl rest
  simp [decodeToken, htakeD, hdropD, htakeE, hdropE, hdne, hene]

/-- Settles O5: the two fields of a token are spelled numbers, which parse back. -/
theorem streamRoundTrip : Obligations.StreamRoundTrip := by
  refine ⟨fun o l rest => ?_, fun b rest h => decodeToken_literal h rest⟩
  have hread := decodeToken_token (isnum_dec o) (isnum_dec l) rest
  rw [val_dec, val_dec] at hread
  simpa [tokenText] using hread

/-! ### The classes of a stream byte (30_encoding R66) -/

theorem decodeStream_outside {b : Byte} (h : b ≠ markOpen) : decodeStream .outside b = .lit b := by
  simp [decodeStream, h]

theorem decodeStream_tokChar {st : ParserState} {b : Byte} (hout : st ≠ .outside)
    (hb : b ≠ markOpen ∧ b ≠ markSep ∧ b ≠ markClose) : decodeStream st b = .tokChar b := by
  simp [decodeStream, hout, hb]

/-- Settles O4: by the branches of the classification. -/
theorem streamClassesCoverAndExclude : Obligations.StreamClassesCoverAndExclude := by
  intro st b
  by_cases hopen : b = markOpen
  · subst hopen
    simp [decodeStream, markOpen]
  by_cases hout : st = .outside
  · subst hout
    have hne : b ≠ 0x3C#8 := hopen
    simp [decodeStream_outside hopen, hne]
  by_cases hsep : b = markSep
  · subst hsep
    simp [decodeStream, hout, markOpen, markSep]
  by_cases hclose : b = markClose
  · subst hclose
    simp [decodeStream, hout, markOpen, markSep, markClose]
  · rw [decodeStream_tokChar hout ⟨hopen, hsep, hclose⟩]
    have hmarks : b ≠ 0x3C#8 ∧ b ≠ 0x2C#8 ∧ b ≠ 0x3E#8 := ⟨hopen, hsep, hclose⟩
    simp [hout, hmarks]

/-! ### The rows of the stream, met alone -/

/-- Settles O36: outside a token each of the three rows is the action D.LIT of its byte. -/
theorem marksOutsideAreLiterals : Obligations.MarksOutsideAreLiterals := by
  intro b s hout
  have hlit : ∀ {c : Byte}, c ≠ markOpen → exec (.lit c) s = .next (s.setDec (s.dec.lit s.cfg.outCap c).state) :=
    fun hc => if_pos ⟨hout, hc⟩
  refine ⟨?_, ?_, fun hb => ?_⟩
  · exact (if_pos hout).trans (hlit (by decide)).symm
  · exact (if_pos hout).trans (hlit (by decide)).symm
  · have hchar : exec (.tokChar b) s = .next (s.setDec (s.dec.action s.cfg.outCap b).state) := if_neg fun h => h.1 hout
    rw [hchar, Dec.action_literal hout hb, hlit hb]

/-! ### The assembled token (30_encoding R65, log entry 10) -/

theorem Dec.actions_append (cap : Option Nat) (xs ys : List Byte) (d : Dec) :
    d.actions cap (xs ++ ys) = (d.actions cap xs).andThen (Dec.actions cap ys) := by
  induction xs generalizing d with
  | nil => rfl
  | cons x xs ih =>
    simp only [List.cons_append, Dec.actions]
    cases d.action cap x with
    | go d' => exact ih d'
    | stop d' => rfl

theorem Dec.actions_singleton (cap : Option Nat) (b : Byte) (d : Dec) : d.actions cap [b] = d.action cap b := by
  rw [Dec.actions]
  cases d.action cap b <;> rfl

/-- Unit D with its parser in `st` and the digit buffers `ob` and `lb`: what the bytes of a token write before it closes. -/
def Dec.parsing (st : ParserState) (ob lb : List Byte) (d : Dec) : Dec := { d with state := st, ob := ob, lb := lb }

@[simp] theorem Dec.parsing_ob (st : ParserState) (ob lb : List Byte) (d : Dec) : (d.parsing st ob lb).ob = ob := rfl
@[simp] theorem Dec.parsing_lb (st : ParserState) (ob lb : List Byte) (d : Dec) : (d.parsing st ob lb).lb = lb := rfl
@[simp] theorem Dec.parsing_out (st : ParserState) (ob lb : List Byte) (d : Dec) : (d.parsing st ob lb).out = d.out := rfl

/-- Bytes each of which joins one and the same buffer fill it in their order; `u bs` is the unit with that buffer at `bs`. -/
theorem Dec.actions_of_joins {cap : Option Nat} (u : List Byte → Dec) {ds : List Byte}
    (h : ∀ b ∈ ds, ∀ bs, (u bs).action cap b = .go (u (bs ++ [b]))) (bs : List Byte) :
    (u bs).actions cap ds = .go (u (bs ++ ds)) := by
  induction ds generalizing bs with
  | nil => rw [Dec.actions, List.append_nil]
  | cons b ds ih =>
    obtain ⟨hb, hds⟩ := List.forall_mem_cons.mp h
    rw [Dec.actions, hb, DecFlow.go_andThen, ih hds, List.append_assoc, List.singleton_append]

/-- The digits of the offset field (42_decoder R137). -/
theorem Dec.actions_offset_digits (cap : Option Nat) {ds : List Byte} (hds : ∀ b ∈ ds, isDigit b = true) (d : Dec) :
    (d.parsing .offset [] []).actions cap ds = .go (d.parsing .offset ds []) :=
  Dec.actions_of_joins (d.parsing .offset · []) (fun b hb _ => Dec.action_char nofun (ne_marks_of_isDigit (hds b hb))) []

/-- The digits of the length field (42_decoder R137). -/
theorem Dec.actions_length_digits (cap : Option Nat) {ds : List Byte} (hds : ∀ b ∈ ds, isDigit b = true) (ob : List Byte)
    (d : Dec) : (d.parsing .length ob []).actions cap ds = .go (d.parsing .length ob ds) :=
  Dec.actions_of_joins (d.parsing .length ob) (fun b hb _ => Dec.action_char nofun (ne_marks_of_isDigit (hds b hb))) []

/-- The bytes of a token come down to its closing mark, met with both fields held (42_decoder R133 to R137). -/
theorem Dec.actions_tokenText (cap : Option Nat) (o l : Nat) (d : Dec) :
    d.actions cap (tokenText o l) = (d.parsing .length (dec o) (dec l)).tokClose cap := by
  have hopen : d.action cap markOpen = .go (d.parsing .offset [] []) := if_pos rfl
  have hoffset := Dec.actions_offset_digits cap (isDigit_of_mem_dec o) d
  have hsep : (d.parsing .offset (dec o) []).action cap markSep = .go (d.parsing .length (dec o) []) := rfl
  have hlength := Dec.actions_length_digits cap (isDigit_of_mem_dec l) (dec o) d
  have hclose : (d.parsing .length (dec o) (dec l)).action cap markClose = _ := Dec.action_markClose nofun
  simp only [tokenText, Dec.actions_append, Dec.actions_singleton, DecFlow.go_andThen, hopen, hoffset, hsep, hlength, hclose]

/-- Settles O41: the token closes with the two numbers it spells, whatever the parser held before it opened. -/
theorem copyTokenRow : Obligations.CopyTokenRow := by
  intro o l s
  have hexec : exec (.copy o l) s =
      .next (s.setDec ((s.dec.parsing .length (dec o) (dec l)).tokClose s.cfg.outCap).state) := by
    rw [← Dec.actions_tokenText]
    rfl
  have hnum : (isnum (dec o) && isnum (dec l)) = true := by simp
  refine ⟨fun hfits => ?_, fun hfull => ?_⟩
  · rw [hexec, Dec.tokClose_of_fits hnum (by simpa using hfits), Dec.parsing_ob, Dec.parsing_lb, val_dec, val_dec]
    rfl
  · rw [hexec, Dec.tokClose_of_full hnum (by simpa using hfull)]
    rfl

/-! ### The codes of a response (30_encoding R64) -/

/-- Settles O44: the bound by each fault in turn. -/
theorem responseCodes : Obligations.ResponseCodes := by
  refine ⟨rfl, rfl, rfl, rfl, rfl, rfl, rfl, rfl, rfl, fun f => ?_⟩
  cases f <;> decide

end Sys2Proof.Machine

namespace Sys2Proof.Machine

/-! ### The scan of the matcher (40_matcher R91)

One equation for each outcome of a compare. -/

section Compare

variable {needle hay : List Byte} {v : Byte} {j c : Nat}

/-- The byte that completes the needle, be it the haystack's last (decision D7). -/
theorem scan_cons_last (h : needle[c]? = some v) (hc : c + 1 = needle.length) :
    scan needle (v :: hay) j c = .found (j - c) := by
  rw [scan_cons, if_pos h, if_pos hc, ← hc, Nat.add_sub_add_right]

theorem scan_cons_match (h : needle[c]? = some v) (hc : c + 1 ≠ needle.length) :
    scan needle (v :: hay) j c = scan needle hay (j + 1) (c + 1) := by
  rw [scan_cons, if_pos h, if_neg hc]

/-- The mismatching byte is consumed (decision D6). -/
theorem scan_cons_mismatch (h : needle[c]? ≠ some v) :
    scan needle (v :: hay) j c = scan needle hay (j + 1) 0 := by
  rw [scan_cons, if_neg h]

end Compare

/-- The scan from a later index finds the same, that much later. -/
theorem scan_add_index (needle hay : List Byte) (k : Nat) {j c : Nat} (hcj : c ≤ j) :
    scan needle hay (k + j) c = (scan needle hay j c).shift k := by
  fun_induction scan needle hay j c with
  | case1 j c => rfl
  | case2 v hay j c h hc =>
    rw [scan_cons_last h hc, Locate.shift_found]
    congr 1
    omega
  | case3 v hay j c h hc ih => rw [scan_cons_match h hc, Nat.add_assoc, ih (by omega)]
  | case4 v hay j c h ih => rw [scan_cons_mismatch h, Nat.add_assoc, ih (by omega)]

/-- What is found begins no earlier than the bytes matched so far. -/
theorem le_of_scan_found {needle hay : List Byte} {j c r : Nat} (h : scan needle hay j c = .found r) : j ≤ r + c := by
  fun_induction scan needle hay j c with
  | case1 => cases h
  | case2 v hay j c _ hc =>
    obtain rfl := Locate.found.inj h
    omega
  | case3 v hay j c _ _ ih =>
    have := ih h
    omega
  | case4 v hay j c _ ih =>
    have := ih h
    omega

/-- Bytes that match, short of the whole needle, move both indices past them. -/
theorem scan_take_append {needle : List Byte} {c : Nat} (hc : c < needle.length) (rest : List Byte) :
    scan needle (needle.take c ++ rest) 0 0 = scan needle rest c c := by
  induction c generalizing rest with
  | zero => rfl
  | succ c ih =>
    have hlt : c < needle.length := Nat.lt_of_succ_lt hc
    rw [List.take_succ_eq_append_getElem hlt, List.append_assoc, List.singleton_append, ih hlt,
      scan_cons_match (List.getElem?_eq_getElem hlt) hc.ne]

/-! ### Where the needle stands (40_matcher R93) -/

theorem take_succ_of_getElem? {needle : List Byte} {c : Nat} {v : Byte} (h : needle[c]? = some v) :
    needle.take (c + 1) = needle.take c ++ [v] := by
  rw [List.take_add_one, h, Option.toList_some]

/-- The first `c` bytes of the needle stand right before the haystack to come, so what is found stands in the whole. -/
theorem split_of_scan_found {needle hay : List Byte} {j c r : Nat} (h : scan needle hay j c = .found r)
    (pre : List Byte) (hj : j = pre.length + c) (hc : c ≤ needle.length) :
    ∃ before after, pre ++ needle.take c ++ hay = before ++ needle ++ after ∧ before.length = r := by
  fun_induction scan needle hay j c generalizing pre with
  | case1 => cases h
  | case2 v hay j c hv hlen =>
    have hneedle : needle.take c ++ [v] = needle := by
      rw [← take_succ_of_getElem? hv, hlen, List.take_length]
    obtain rfl := Locate.found.inj h
    exact ⟨pre, hay, by rw [List.append_assoc, List.append_cons, hneedle, ← List.append_assoc], by omega⟩
  | case3 v hay j c hv hlen ih =>
    have hlt : c < needle.length := (List.getElem?_eq_some_iff.mp hv).1
    simpa [take_succ_of_getElem? hv] using ih h pre (by omega) hlt
  | case4 v hay j c hv ih =>
    simpa using ih h (pre ++ needle.take c ++ [v]) (by simp; omega) (Nat.zero_le _)

/-- Settles O11: the haystack splits around the needle found, which the whole scan meets with nothing matched before. -/
theorem locateIsSound : Obligations.LocateIsSound := by
  intro needle hay r h
  obtain ⟨before, after, rfl, rfl⟩ : ∃ before after, hay = before ++ needle ++ after ∧ before.length = r :=
    split_of_scan_found h [] rfl (Nat.zero_le _)
  simp

/-! ### A needle and its extension (40_matcher R95) -/

/-- Up to the last byte of `x` the two scans do the same; what the longer one finds begins no earlier than that. -/
theorem scan_found_of_append_found {x hay : List Byte} {b : Byte} {j c r : Nat} (hc : c < x.length)
    (h : scan (x ++ [b]) hay j c = .found r) : ∃ r', scan x hay j c = .found r' ∧ r' ≤ r := by
  induction hay generalizing j c with
  | nil => cases h
  | cons v hay ih =>
    have hget : (x ++ [b])[c]? = x[c]? := List.getElem?_append_left hc
    have hlen : c + 1 ≠ (x ++ [b]).length := by
      rw [List.length_append, List.length_singleton]
      omega
    by_cases hv : x[c]? = some v
    · rw [scan_cons_match (hget.trans hv) hlen] at h
      by_cases hlast : c + 1 = x.length
      · have := le_of_scan_found h
        exact ⟨j - c, scan_cons_last hv hlast, by omega⟩
      · rw [scan_cons_match hv hlast]
        exact ih (by omega) h
    · rw [scan_cons_mismatch (hget ▸ hv)] at h
      rw [scan_cons_mismatch hv]
      exact ih (by omega) h

/-- Settles O12: with nothing matched yet, the cursor is short of a non-empty `x`. -/
theorem locatePrefixLaw : Obligations.LocatePrefixLaw :=
  fun _ _ _ _ hx h => scan_found_of_append_found (List.length_pos_of_ne_nil hx) h

/-! ### The three laws of the scan (40_matcher R91, R92, R94) -/

/-- No needle is found in a shorter haystack. -/
theorem locate_of_length_lt {needle hay : List Byte} (h : hay.length < needle.length) : locate needle hay = .nf := by
  cases hl : locate needle hay with
  | nf => rfl
  | found r => exact absurd (length_le_of_locate_found hl) (Nat.not_le.mpr h)

/-- A haystack that begins with the needle. -/
theorem locate_append {needle : List Byte} (h : needle ≠ []) (rest : List Byte) :
    locate needle (needle ++ rest) = .found 0 := by
  obtain ⟨front, last, rfl⟩ := needle.eq_nil_or_concat'.resolve_left h
  have hscan := scan_take_append (needle := front ++ [last]) (c := front.length) (by simp) (last :: rest)
  rw [List.take_left, scan_cons_last (by simp) (by simp), Nat.sub_self] at hscan
  simpa [locate] using hscan

/-- A haystack that departs from the needle after `c` bytes. -/
theorem locate_mismatch {needle : List Byte} {c : Nat} {v : Byte} (hc : c < needle.length) (hv : needle[c]? ≠ some v)
    (rest : List Byte) : locate needle (needle.take c ++ v :: rest) = (locate needle rest).shift (c + 1) := by
  rw [locate, scan_take_append hc, scan_cons_mismatch hv]
  exact scan_add_index needle rest (c + 1) (Nat.zero_le 0)

/-- Settles O13: the three laws of the scan; too few bytes of the needle are a haystack without room. -/
theorem locateNeedsRoom : Obligations.LocateNeedsRoom :=
  ⟨fun _ _ => locate_of_length_lt, fun _ => rfl, fun _ rest h => locate_append h rest,
    fun _ rest _ _ hc hv => locate_mismatch hc hv rest,
    fun _ _ hc => locate_of_length_lt (by simpa using hc)⟩

/-! ### A needle of one byte -/

theorem Locate.shift_one_eq_found_succ {x : Locate} {r : Nat} : x.shift 1 = .found (r + 1) ↔ x = .found r := by
  cases x <;> simp [Nat.add_comm]

theorem Locate.shift_one_ne_found_zero (x : Locate) : x.shift 1 ≠ .found 0 := by
  cases x <;> simp

/-- Settles O14: each byte of the haystack is either the needle or consumed. -/
theorem locateOneByteIsExact : Obligations.LocateOneByteIsExact := by
  intro a hay r
  induction hay generalizing r with
  | nil => simp [locate]
  | cons v hay ih =>
    by_cases hv : v = a
    · subst hv
      have hfirst : locate [v] (v :: hay) = .found 0 := locate_append (List.cons_ne_nil _ _) hay
      rw [hfirst]
      cases r with
      | zero => simp
      | succ r =>
        rw [Nat.forall_lt_succ_left]
        simp
    · have hrest : locate [a] (v :: hay) = (locate [a] hay).shift 1 :=
        locate_mismatch (needle := [a]) (c := 0) Nat.one_pos (by simpa using Ne.symm hv) hay
      rw [hrest]
      cases r with
      | zero => simp [Locate.shift_one_ne_found_zero, hv]
      | succ r =>
        rw [Locate.shift_one_eq_found_succ, ih, Nat.forall_lt_succ_left]
        simp [hv]

/-! ### The row M.LOCATE -/

/-- Settles O15: by the row's one test, that of R96. -/
theorem locateRow : Obligations.LocateRow := fun _ _ _ => ⟨fun h => if_neg h, rfl⟩

end Sys2Proof.Machine

namespace Sys2Proof.Machine

/-! ### The condition bits of the encoder -/

/-- `found` of 41_encoder R103, spelled with NF. -/
theorem foundBit_eq (b : Byte) (e : Enc) : foundBit b e = decide (locate (e.cc ++ [b]) e.sb ≠ .nf) := by
  rw [foundBit, append]
  cases locate (e.cc ++ [b]) e.sb <;> rfl

theorem Enc.flushTriggered_iff (e : Enc) : e.flushTriggered = true ↔ e.found = false ∨ e.last = true := by
  simp [Enc.flushTriggered]

theorem Enc.absorbTriggered_iff (e : Enc) : e.absorbTriggered = true ↔ e.last = true ∧ e.found = true := by
  simp [Enc.absorbTriggered]

/-! ### The micro-operations of the encoder as rows -/

/-- Settles O16: the row is the definition of the bit. -/
theorem extTestWritesFound : Obligations.ExtTestWritesFound := by
  intro b s
  rw [← foundBit_eq]
  rfl

/-- Settles O17: by the condition of either row. -/
theorem absorbAndAppend : Obligations.AbsorbAndAppend := by
  intro b s
  have hrow : exec (.eAppend b) s = .next (s.setEnc (s.enc.appendStep b)) := rfl
  refine ⟨fun hlast hfound => ?_, fun hnot => ?_, fun habs => ?_⟩
  · exact congrArg Host.Outcome.next (if_pos (s.enc.absorbTriggered_iff.mpr ⟨hlast, hfound⟩))
  · rw [hrow, Enc.appendStep, hnot]
    rfl
  · rw [hrow, Enc.appendStep, habs]
    rfl

/-- E.FLUSH_RUN of a run that is not located (41_encoder R107, R125). -/
theorem Enc.flushRun_of_nf {e : Enc} (h : locate e.cc e.sb = .nf) :
    e.flushRun = { e with port := e.port.emitSeq e.cc, sb := e.sb ++ e.cc, cc := [] } := by
  rw [Enc.flushRun, h]
  rfl

/-- E.FLUSH_RUN of a located run whose token is not longer than it (41_encoder R107, R108, R109). -/
theorem Enc.flushRun_of_fits {e : Enc} {r : Nat} (h : locate e.cc e.sb = .found r)
    (hfits : toklen (e.sb.length - r) e.cc.length ≤ e.cc.length) :
    e.flushRun = { e with port := e.port.emitSeq (tokenText (e.sb.length - r) e.cc.length)
                          sb := e.sb ++ e.cc, cc := [], fits := true } := by
  have hbit : fitsBit (e.sb.length - r) e.cc.length = true := by simpa [fitsBit] using hfits
  rw [Enc.flushRun, h]
  simp only [Enc.emitTokenOrRun, if_pos hbit]
  rfl

/-- E.FLUSH_RUN of a located run whose token is longer than it (41_encoder R107, R109). -/
theorem Enc.flushRun_of_too_long {e : Enc} {r : Nat} (h : locate e.cc e.sb = .found r)
    (hlong : e.cc.length < toklen (e.sb.length - r) e.cc.length) :
    e.flushRun = { e with port := e.port.emitSeq e.cc, sb := e.sb ++ e.cc, cc := [], fits := false } := by
  have hbit : ¬ fitsBit (e.sb.length - r) e.cc.length = true := by simpa [fitsBit] using hlong
  rw [Enc.flushRun, h]
  simp only [Enc.emitTokenOrRun, if_neg hbit]
  rfl

/-- Settles O18: by what the matcher answers and, where it finds the run, by the two lengths. -/
theorem flushRunEmitsTokenOrRun : Obligations.FlushRunEmitsTokenOrRun := by
  intro s htrig hlen
  have hrow : exec .eFlushRun s = .next (s.setEnc s.enc.flushRun) :=
    congrArg Host.Outcome.next (if_pos ⟨s.enc.flushTriggered_iff.mpr htrig, hlen⟩)
  refine ⟨fun hnf => ?_, fun r hr hfits => ?_, fun r hr hlong => ?_⟩
  · rw [hrow, Enc.flushRun_of_nf hnf]
    rfl
  · rw [hrow, Enc.flushRun_of_fits hr hfits]
    rfl
  · rw [hrow, Enc.flushRun_of_too_long hr hlong]
    rfl

/-- Settles O19: under its condition the row emits the run and retires it. -/
theorem flushShortEmitsTheRun : Obligations.FlushShortEmitsTheRun := fun s htrig hlen =>
  congrArg Host.Outcome.next (if_pos ⟨s.enc.flushTriggered_iff.mpr htrig, hlen⟩)

/-- Settles O20: by the comparison of R112. -/
theorem evictDropsOneAboveTheWindow : Obligations.EvictDropsOneAboveTheWindow := by
  intro s
  have hrow : exec .eEvict s = .next (s.setEnc { s.enc with sb := trim s.enc.w s.enc.sb }) := by
    rw [← Enc.evict_eq]
    rfl
  refine ⟨fun habove => ?_, fun hwithin => ?_⟩
  · rw [hrow, trim, if_pos habove]
    rfl
  · rw [hrow, trim, if_neg (Nat.not_lt.mpr hwithin)]
    rfl

/-- Settles O21: the row is E.DRAIN of R114. -/
theorem drainEmitsThePendingRun : Obligations.DrainEmitsThePendingRun := fun _ => rfl

/-- Settles O22: each condition that fails is the test of its row. -/
theorem microOperationsPassedOver : Obligations.MicroOperationsPassedOver := by
  intro b s
  have hflush : s.enc.found = true ∧ s.enc.last = false → ¬ s.enc.flushTriggered = true := fun ⟨hfound, hlast⟩ => by
    simp [Enc.flushTriggered_iff, hfound, hlast]
  refine ⟨fun h => ?_, fun h => ⟨?_, ?_⟩, fun hshort => ?_, fun hlong => ?_⟩
  · exact congrArg Host.Outcome.next (if_neg (mt s.enc.absorbTriggered_iff.mp h))
  · exact congrArg Host.Outcome.next (if_neg fun htrig => hflush h htrig.1)
  · exact congrArg Host.Outcome.next (if_neg fun htrig => hflush h htrig.1)
  · exact congrArg Host.Outcome.next (if_neg fun hrun => Nat.not_lt.mpr hshort hrun.2)
  · exact congrArg Host.Outcome.next (if_neg fun hrun => Nat.not_le.mpr hlong hrun.2)

/-! ### The commands of the encoder -/

/-- Settles O23: by whether the window is accepted. -/
theorem encStartOpensOrRefuses : Obligations.EncStartOpensOrRefuses := by
  intro w n s
  refine ⟨s.enc.start s.cfg w n, rfl, ?_⟩
  by_cases hw : w = 0 ∨ s.cfg.wMax < w
  · have hnot : ¬(1 ≤ w ∧ w ≤ s.cfg.wMax) := by omega
    rw [Enc.start_refused hw]
    exact ⟨rfl, rfl, rfl, rfl, ⟨rfl, rfl, rfl, rfl⟩, fun h => absurd h hnot, fun _ => ⟨rfl, rfl, rfl, rfl⟩⟩
  · rw [Enc.start_accepted (by omega) (by omega)]
    exact ⟨rfl, rfl, rfl, rfl, ⟨rfl, rfl, rfl, rfl⟩, fun _ => ⟨rfl, rfl, rfl, rfl⟩, fun h => absurd h hw⟩

end Sys2Proof.Machine

namespace Sys2Proof.Machine

/-! ### One turn of the encoder's loop

ENC_PUSH and the loop of `Encode` do the same with a byte: of the run lengthened by it they retire a front part, perhaps
empty, and keep the rest as the new run (41_encoder R102, R115). -/

/-- The bytes a turn retires to the search buffer; `last` says that no byte follows `b`. -/
def retiredRun (last : Bool) (b : Byte) (sb cc : List Byte) : List Byte :=
  if (locate (cc ++ [b]) sb).isFound then if last then cc ++ [b] else [] else cc

/-- The run a turn leaves, before any drain. -/
def keptRun (last : Bool) (b : Byte) (sb cc : List Byte) : List Byte :=
  if (locate (cc ++ [b]) sb).isFound then if last then [] else cc ++ [b] else [b]

/-- A turn loses no byte and invents none. -/
theorem retiredRun_append_keptRun (last : Bool) (b : Byte) (sb cc : List Byte) :
    retiredRun last b sb cc ++ keptRun last b sb cc = cc ++ [b] := by
  by_cases hf : (locate (cc ++ [b]) sb).isFound = true
  · cases last <;> simp [retiredRun, keptRun, hf]
  · simp [retiredRun, keptRun, hf]

theorem length_retiredRun_add_keptRun (last : Bool) (b : Byte) (sb cc : List Byte) :
    (retiredRun last b sb cc).length + (keptRun last b sb cc).length = cc.length + 1 := by
  simpa using congrArg List.length (retiredRun_append_keptRun last b sb cc)

/-- A run of more than one byte stands in the search buffer, so it is no longer than that (41_encoder R122). -/
theorem length_keptRun_le (last : Bool) (b : Byte) (sb cc : List Byte) :
    (keptRun last b sb cc).length ≤ max 1 sb.length := by
  by_cases hf : (locate (cc ++ [b]) sb).isFound = true
  · obtain ⟨r, hr⟩ := (Locate.isFound_iff _).mp hf
    have hroom := length_le_of_locate_found hr
    rw [keptRun, if_pos hf]
    cases last
    · exact hroom.trans (le_max_right 1 _)
    · exact Nat.zero_le _
  · simp [keptRun, hf]

/-- Unless the byte is the last, what a turn retires is at most the run before it. -/
theorem length_retiredRun_le (last : Bool) (b : Byte) (sb cc : List Byte) :
    (retiredRun last b sb cc).length ≤ cc.length + if last then 1 else 0 := by
  by_cases hf : (locate (cc ++ [b]) sb).isFound = true
  · cases last <;> simp [retiredRun, hf]
  · simp [retiredRun, hf]

@[simp] theorem flushText_nil (sb : List Byte) : flushText [] sb = [] := rfl

/-- One turn of the loop of `Encode` (41_encoder R115). -/
theorem encodeLoop_cons (w : Nat) (b : Byte) (rest sb cc : List Byte) :
    encodeLoop w (b :: rest) sb cc =
      flushText (retiredRun rest.isEmpty b sb cc) sb ++
        encodeLoop w rest (trim w (sb ++ retiredRun rest.isEmpty b sb cc)) (keptRun rest.isEmpty b sb cc) := by
  rw [encodeLoop]
  by_cases hf : (locate (cc ++ [b]) sb).isFound = true
  · cases hl : rest.isEmpty <;> simp [retiredRun, keptRun, hf]
  · simp [retiredRun, keptRun, hf]

/-- ENC_PUSH in status BUSY is one turn of the same loop, its text emitted (41_encoder R102). -/
theorem Enc.push_turn {e : Enc} (hb : e.port.status = .busy) (b : Byte) :
    e.push b =
      e.afterByte (e.sb ++ retiredRun (lastBit e) b e.sb e.cc) (keptRun (lastBit e) b e.sb e.cc)
        (flushText (retiredRun (lastBit e) b e.sb e.cc) e.sb) := by
  by_cases hf : foundBit b e = true
  · have hloc : (locate (e.cc ++ [b]) e.sb).isFound = true := hf
    by_cases hl : e.i + 1 = e.n
    · simp [Enc.push_absorbs hb hf hl, retiredRun, keptRun, lastBit, hloc, hl]
    · simp [Enc.push_extends hb hf hl, retiredRun, keptRun, lastBit, hloc, hl]
  · have hloc : ¬ (locate (e.cc ++ [b]) e.sb).isFound = true := hf
    simp [Enc.push_flushes hb (eq_false_of_ne_true hf), retiredRun, keptRun, hloc]

/-- The buffers of unit E inside an ENC_PUSH, just before E.EVICT. -/
theorem Enc.beforeEvict_buffers (b : Byte) (e : Enc) :
    (e.beforeEvict b).sb = e.sb ++ retiredRun (lastBit e) b e.sb e.cc ∧
      (e.beforeEvict b).cc = keptRun (lastBit e) b e.sb e.cc := by
  by_cases hf : foundBit b e = true
  · have hloc : (locate (e.cc ++ [b]) e.sb).isFound = true := hf
    cases hl : lastBit e with
    | true =>
      obtain ⟨f, hpre⟩ := Enc.beforeEvict_absorbs hf hl
      simp [hpre, retiredRun, keptRun, hloc]
    | false => simp [Enc.beforeEvict_extends hf hl, retiredRun, keptRun, hloc]
  · have hloc : ¬ (locate (e.cc ++ [b]) e.sb).isFound = true := hf
    obtain ⟨f, hpre⟩ := Enc.beforeEvict_flushes (eq_false_of_ne_true hf)
    simp [hpre, retiredRun, keptRun, hloc]

/-- Settles O24: by whether the run extends and whether the byte is the last. -/
theorem encPushTurn : Obligations.EncPushTurn := by
  intro b s hb
  have hfound : locate (s.enc.cc ++ [b]) s.enc.sb ≠ .nf → (locate (s.enc.cc ++ [b]) s.enc.sb).isFound = true :=
    fun hext => (foundBit_eq b s.enc).trans (decide_eq_true hext)
  refine ⟨s.enc.push b, rfl, ?_⟩
  rw [Enc.push_turn hb]
  refine ⟨rfl, rfl, rfl, rfl, by simp only [Enc.afterByte, hb], ⟨rfl, rfl, rfl, rfl⟩,
    fun hext hmore => ?_, fun hend hmore => ?_, fun hext hlast => ?_, fun hend hlast => ?_⟩
  · simp [Enc.afterByte, retiredRun, keptRun, lastBit, hfound hext, hmore]
  · simp [Enc.afterByte, retiredRun, keptRun, Locate.isFound, hend, hmore]
  · simp [Enc.afterByte, retiredRun, keptRun, lastBit, hfound hext, hlast]
  · simp [Enc.afterByte, retiredRun, keptRun, Locate.isFound, hend, hlast]

/-! ### The bounds of the encoder's buffers (41_encoder R121, R122) -/

/-- A run that still extends, and the byte that extends it, stand in the search buffer, so together with it they would
exceed `2*W` if they were longer than the window. -/
theorem length_add_one_le_of_found {e : Enc} (hsize : e.Bounded) {b : Byte} (hf : locate (e.cc ++ [b]) e.sb ≠ .nf) :
    e.cc.length + 1 ≤ e.w := by
  obtain ⟨hsum, -⟩ := hsize
  have hlt : e.cc.length < e.sb.length := length_lt_of_foundBit ((foundBit_eq b e).trans (decide_eq_true hf))
  omega

/-- A run kept by a turn is a single byte or one that still extends. -/
theorem length_keptRun_le_window {e : Enc} (hsize : e.Bounded) (hw : 1 ≤ e.w) (last : Bool) (b : Byte) :
    (keptRun last b e.sb e.cc).length ≤ e.w := by
  by_cases hf : locate (e.cc ++ [b]) e.sb = .nf
  · simpa [keptRun, hf, Locate.isFound] using hw
  · have hrun := length_add_one_le_of_found hsize hf
    have hsum := length_retiredRun_add_keptRun last b e.sb e.cc
    omega

/-- Settles O26: a turn retires at most the run, and its byte when that is the last. -/
theorem buffersStayWithinCapacity : Obligations.BuffersStayWithinCapacity := by
  intro b s hinv hb
  obtain ⟨-, -, hsb, hcc, -, -⟩ := hinv.legal
  obtain ⟨-, hbusy, -⟩ := hinv.enc.status
  obtain ⟨-, hmax, -, -⟩ := hbusy hb
  obtain ⟨-, -, hw, -⟩ := hinv.enc.range
  obtain ⟨hsum, hrun⟩ := hinv.enc.bounded
  obtain ⟨hsb', hcc'⟩ := s.enc.beforeEvict_buffers b
  have hretired := length_retiredRun_le (lastBit s.enc) b s.enc.sb s.enc.cc
  have hkept := length_keptRun_le_window hinv.enc.bounded hw (lastBit s.enc) b
  have hsbLen : (s.enc.beforeEvict b).sb.length ≤ 2 * s.enc.w + if s.enc.i + 1 = s.enc.n then 1 else 0 := by
    simp only [lastBit, decide_eq_true_eq] at hretired
    rw [hsb', List.length_append]
    simp only [lastBit]
    omega
  refine ⟨hsbLen, ?_, hrun, by omega, fun hf => ?_, by rwa [hcc'], by rw [hcc']; omega⟩
  · split at hsbLen <;> omega
  · have hext := length_add_one_le_of_found hinv.enc.bounded hf
    omega

/-! ### The tokens the encoder emits (41_encoder R119) -/

theorem one_le_length_dec (n : Nat) : 1 ≤ (dec n).length := List.length_pos_of_ne_nil (dec_ne_nil n)

/-- Settles O25: the run stands in the search buffer from `r` on, and no token is shorter than five bytes. -/
theorem emittedTokenShape : Obligations.EmittedTokenShape := by
  intro cc sb r _ hloc htok
  obtain ⟨hroom, hstands⟩ := locateIsSound cc sb r hloc
  have ho := one_le_length_dec (sb.length - r)
  have hl := one_le_length_dec cc.length
  have hdef : toklen (sb.length - r) cc.length = 3 + (dec (sb.length - r)).length + (dec cc.length).length := rfl
  exact ⟨by omega, by omega, Nat.sub_le _ _, hstands⟩

/-! ### The function Encode -/

/-- From any buffers on, the loop answers at most the pending run and the input to come. -/
theorem length_encodeLoop_le (w : Nat) (bytes sb cc : List Byte) :
    (encodeLoop w bytes sb cc).length ≤ cc.length + bytes.length := by
  induction bytes generalizing sb cc with
  | nil => exact le_rfl
  | cons b rest ih =>
    rw [encodeLoop_cons, List.length_append, List.length_cons]
    have htext := length_flushText_le (retiredRun rest.isEmpty b sb cc) sb
    have hrest := ih (trim w (sb ++ retiredRun rest.isEmpty b sb cc)) (keptRun rest.isEmpty b sb cc)
    have hsum := length_retiredRun_add_keptRun rest.isEmpty b sb cc
    omega

/-- Settles O59: by the bound on the loop, begun with an empty run. -/
theorem neverLonger : Obligations.NeverLonger := fun w bytes => by
  simpa [encodeFn] using length_encodeLoop_le w bytes [] []

/-! ### Frames as runs of commands -/

/-- A run's first command answers, and the run goes on. -/
theorem runCommands_cons {u : UnitId} {i : Instr} {is : List Instr} {s t r : State} {out : List Byte}
    (h : exec i s = .next t) (hr : runCommands u is t = some (r, out)) :
    runCommands u (i :: is) s = some (r, t.emitted u ++ out) := by
  simp only [runCommands, h, hr]

/-- A run of commands that answered took its first command and ran the others. -/
theorem exists_of_runCommands_cons {u : UnitId} {i : Instr} {is : List Instr} {s r : State} {out : List Byte}
    (h : runCommands u (i :: is) s = some (r, out)) :
    ∃ t out', exec i s = .next t ∧ runCommands u is t = some (r, out') := by
  simp only [runCommands] at h
  split at h
  · next t ht =>
    split at h
    · next r' out' hr =>
      obtain ⟨rfl, -⟩ := Prod.mk.inj (Option.some.inj h)
      exact ⟨t, out', ht, hr⟩
    · cases h
  · cases h
  · cases h

/-- No run of commands changes the build parameters. -/
theorem cfg_of_runCommands {u : UnitId} {is : List Instr} {s r : State} {out : List Byte}
    (h : runCommands u is s = some (r, out)) : r.cfg = s.cfg := by
  induction is generalizing s out with
  | nil =>
    obtain ⟨rfl, -⟩ := Prod.mk.inj (Option.some.inj h)
    rfl
  | cons i is ih =>
    obtain ⟨t, out', ht, hr⟩ := exists_of_runCommands_cons h
    exact (ih hr).trans (exec_frame ht).1

/-- Unit E after a run of pushes. -/
theorem enc_of_runCommands_encPush {bytes : List Byte} {s r : State} {out : List Byte}
    (h : runCommands .E (bytes.map .encPush) s = some (r, out)) : r.enc = bytes.foldl (fun e b => e.push b) s.enc := by
  induction bytes generalizing s out with
  | nil =>
    obtain ⟨rfl, -⟩ := Prod.mk.inj (Option.some.inj h)
    rfl
  | cons b bytes ih =>
    obtain ⟨t, out', ht, hr⟩ := exists_of_runCommands_cons h
    obtain rfl := Host.Outcome.next.inj ht
    exact ih hr

/-! ### The frame ENCODE -/

/-- Unit E after an accepted ENC_START (41_encoder R101). -/
def Enc.opened (w n : Nat) : Enc :=
  { Enc.reset with port := { status := if n = 0 then .done else .busy, fault := .fNone, dout := [] }, w := w, n := n }

theorem exec_encStart_accepted {w : Nat} {s : State} (hw : 1 ≤ w) (hmax : w ≤ s.cfg.wMax) (n : Nat) :
    exec (.encStart w n) s = .next (s.setEnc (Enc.opened w n)) :=
  congrArg (fun e => Host.Outcome.next (s.setEnc e)) (Enc.start_accepted hw hmax n s.enc)

/-- Unit E in a frame of which exactly the bytes `bytes` are still to come. -/
structure Enc.Awaits (bytes : List Byte) (e : Enc) : Prop where
  counter : e.i + bytes.length = e.n
  status  : e.port.status = if bytes = [] then .done else .busy
  run     : bytes = [] → e.cc = []

theorem Enc.opened_awaits (w : Nat) (bytes : List Byte) : (Enc.opened w bytes.length).Awaits bytes where
  counter := Nat.zero_add _
  status := by simp [Enc.opened]
  run := fun _ => rfl

namespace Enc.Awaits

variable {b : Byte} {rest : List Byte} {e : Enc} (h : e.Awaits (b :: rest))

include h

theorem busy : e.port.status = .busy := by simpa using h.status

theorem last_iff : e.i + 1 = e.n ↔ rest = [] := by
  have hn := h.counter
  rw [List.length_cons] at hn
  rw [← List.length_eq_zero_iff]
  omega

/-- The machine tells the last byte by its counter, `Encode` by what follows it (41_encoder R105, R115). -/
theorem push_eq : e.push b =
    e.afterByte (e.sb ++ retiredRun rest.isEmpty b e.sb e.cc) (keptRun rest.isEmpty b e.sb e.cc)
      (flushText (retiredRun rest.isEmpty b e.sb e.cc) e.sb) := by
  have hbit : lastBit e = rest.isEmpty := by
    rw [Bool.eq_iff_iff, lastBit, decide_eq_true_eq, h.last_iff, List.isEmpty_iff]
  rw [Enc.push_turn h.busy, hbit]

theorem push : (e.push b).Awaits rest := by
  have hn := h.counter
  rw [List.length_cons] at hn
  rw [h.push_eq]
  refine ⟨?_, ?_, fun hrest => if_pos (h.last_iff.mpr hrest)⟩
  · simp only [Enc.afterByte]
    omega
  · simp only [Enc.afterByte, h.last_iff, h.busy]

/-- The turn of the machine emits the turn of the loop; with the last byte also the run the loop answers in the end. -/
theorem encodeLoop_eq : encodeLoop e.w (b :: rest) e.sb e.cc =
    (e.push b).port.dout ++ encodeLoop e.w rest (e.push b).sb (e.push b).cc := by
  rw [encodeLoop_cons, h.push_eq]
  by_cases hrest : rest = []
  · simp [Enc.afterByte, h.last_iff.mpr hrest, hrest, encodeLoop]
  · simp [Enc.afterByte, mt h.last_iff.mp hrest]

end Enc.Awaits

/-- The pushes of the bytes a frame awaits emit what the loop of `Encode` answers from the machine's buffers on
(41_encoder R115). -/
theorem runCommands_encPush {bytes : List Byte} {s : State} (h : s.enc.Awaits bytes) :
    ∃ t, runCommands .E (bytes.map .encPush) s = some (t, encodeLoop s.enc.w bytes s.enc.sb s.enc.cc) ∧
      t.enc.port.status = .done ∧ t.enc.port.fault = s.enc.port.fault := by
  induction bytes generalizing s with
  | nil =>
    refine ⟨s, ?_, h.status, rfl⟩
    rw [h.run rfl]
    rfl
  | cons b rest ih =>
    have hfirst : exec (.encPush b) s = .next (s.setEnc (s.enc.push b)) := rfl
    have hw : (s.enc.push b).w = s.enc.w := by rw [h.push_eq]; rfl
    have hf : (s.enc.push b).port.fault = s.enc.port.fault := by rw [h.push_eq]; rfl
    obtain ⟨t, hrun, hdone, hfault⟩ := ih (s := s.setEnc (s.enc.push b)) h.push
    refine ⟨t, ?_, hdone, hfault.trans hf⟩
    rw [List.map_cons, runCommands_cons hfirst hrun, h.encodeLoop_eq, ← hw]
    rfl

/-- Settles O55: an accepted ENC_START opens a frame that awaits the whole input, with empty buffers. -/
theorem encodeFrameIsEncode : Obligations.EncodeFrameIsEncode := by
  intro w bytes s hw hmax
  obtain ⟨t, hrun, hdone, hfault⟩ :=
    runCommands_encPush (s := s.setEnc (Enc.opened w bytes.length)) (Enc.opened_awaits w bytes)
  exact ⟨t, runCommands_cons (exec_encStart_accepted hw hmax bytes.length) hrun, hdone, hfault⟩

/-! ### The window (41_encoder R118) -/

theorem trim_suffix (w : Nat) (sb : List Byte) : trim w sb <:+ sb := by
  rw [trim]
  split
  · exact List.drop_suffix 1 sb
  · exact List.suffix_rfl

/-- Unit E in an open frame of `n` bytes with window `w`, of which the bytes `bytes` have been pushed. -/
structure Enc.Holds (w n : Nat) (bytes : List Byte) (e : Enc) : Prop where
  busy    : e.port.status = .busy
  window  : e.w = w
  length  : e.n = n
  counter : e.i = bytes.length
  suffix  : e.sb ++ e.cc <:+ bytes
  lower   : min bytes.length w ≤ e.sb.length + e.cc.length
  upper   : e.sb.length + e.cc.length ≤ 2 * w

theorem Enc.opened_holds (w : Nat) {n : Nat} (hn : 0 < n) : (Enc.opened w n).Holds w n [] where
  busy := if_neg hn.ne'
  window := rfl
  length := rfl
  counter := rfl
  suffix := List.suffix_rfl
  lower := Nat.min_le_left 0 w
  upper := Nat.zero_le _

/-- A byte that is not the frame's last joins the run, part of which may go to the search buffer; of that at most the oldest
byte is evicted, and only when it is longer than the window. -/
theorem Enc.Holds.push {w n : Nat} {bytes : List Byte} {e : Enc} (h : e.Holds w n bytes) (hw : 1 ≤ w) {b : Byte}
    (hn : bytes.length + 1 < n) : (e.push b).Holds w n (bytes ++ [b]) := by
  obtain ⟨hbusy, rfl, rfl, hi, hsuffix, hlower, hupper⟩ := h
  have hmore : ¬ e.i + 1 = e.n := by omega
  have hjoin := retiredRun_append_keptRun (lastBit e) b e.sb e.cc
  have hsum := length_retiredRun_add_keptRun (lastBit e) b e.sb e.cc
  have hkept := length_keptRun_le (lastBit e) b e.sb e.cc
  have hpush := Enc.push_turn hbusy b
  generalize retiredRun (lastBit e) b e.sb e.cc = run at *
  generalize keptRun (lastBit e) b e.sb e.cc = cc at *
  have htrim := length_trim e.w (e.sb ++ run)
  have hcc : (e.push b).cc = cc := by rw [hpush]; exact if_neg hmore
  have hsb : (e.push b).sb = trim e.w (e.sb ++ run) := by rw [hpush]; rfl
  rw [List.length_append] at htrim
  refine ⟨?_, ?_, ?_, ?_, ?_, ?_, ?_⟩
  · rw [hpush]; exact (if_neg hmore).trans hbusy
  · rw [hpush]; rfl
  · rw [hpush]; rfl
  · rw [hpush, List.length_append, ← hi]; rfl
  · have hall : e.sb ++ run ++ cc <:+ bytes ++ [b] := by
      rw [List.append_assoc, hjoin, ← List.append_assoc]
      exact List.suffix_append_self_iff.mpr hsuffix
    rw [hcc, hsb]
    exact (List.suffix_append_self_iff.mpr (trim_suffix e.w (e.sb ++ run))).trans hall
  · rw [hcc, hsb, List.length_append, List.length_singleton]
    split at htrim <;> omega
  · rw [hcc, hsb]
    split at htrim <;> omega

/-- Any number of pushes short of the frame's length. -/
theorem Enc.holds_of_pushes {w n : Nat} (hw : 1 ≤ w) (bytes : List Byte) (hn : bytes.length < n) :
    (bytes.foldl (fun e b => e.push b) (Enc.opened w n)).Holds w n bytes := by
  induction bytes using List.reverseRecOn with
  | nil => exact Enc.opened_holds w hn
  | append_singleton bytes b ih =>
    rw [List.length_append, List.length_singleton] at hn
    rw [List.foldl_append]
    exact (ih (Nat.lt_of_succ_lt hn)).push hw hn

/-- Settles O57: by the invariant of an open frame. -/
theorem windowHoldsTheInputTail : Obligations.WindowHoldsTheInputTail := by
  intro w n bytes s t out hw hmax hn hrun
  obtain ⟨t₀, out', hstart, hpushes⟩ := exists_of_runCommands_cons hrun
  obtain rfl := Host.Outcome.next.inj ((exec_encStart_accepted hw hmax n).symm.trans hstart)
  rw [enc_of_runCommands_encPush hpushes]
  have h := Enc.holds_of_pushes hw bytes hn
  exact ⟨h.busy, h.counter, h.suffix, h.lower, h.upper⟩

/-! ### Unit D and the function Decode (42_decoder R140) -/

/-- What the loop of `Decode` answers from unit D's registers on. -/
def Dec.decodes (cap : Option Nat) (bytes : List Byte) (d : Dec) : DecodeResult :=
  decodeLoop cap bytes d.out d.state d.ob d.lb

/-- The same after the actions of some bytes, a fault among them ending it. -/
def DecFlow.decodes (cap : Option Nat) (bytes : List Byte) : DecFlow → DecodeResult
  | .go d => d.decodes cap bytes
  | .stop d => .fail d.port.fault

@[simp] theorem Dec.decodes_nil (cap : Option Nat) (d : Dec) : d.decodes cap [] = .output d.out := rfl

@[simp] theorem DecFlow.decodes_go (cap : Option Nat) (bytes : List Byte) (d : Dec) :
    (DecFlow.go d).decodes cap bytes = d.decodes cap bytes := rfl

@[simp] theorem DecFlow.decodes_stop (cap : Option Nat) (bytes : List Byte) (d : Dec) :
    (DecFlow.stop d).decodes cap bytes = .fail d.port.fault := rfl

/-- The loop of `Decode` takes a byte by the action of the byte (42_decoder R132, R140). -/
theorem Dec.decodes_cons (cap : Option Nat) (b : Byte) (rest : List Byte) (d : Dec) :
    d.decodes cap (b :: rest) = (d.action cap b).decodes cap rest := by
  rw [Dec.decodes, decodeLoop.eq_def]
  simp only
  by_cases hopen : b = markOpen
  · subst hopen
    simp [Dec.action_markOpen, Dec.decodes, Dec.took]
  by_cases hout : d.state = .outside
  · rw [Dec.action_literal hout hopen]
    by_cases hfits : fitsCap cap (d.out.length + 1) = true
    · simp [Dec.lit_of_fits hfits, Dec.decodes, Dec.took, hopen, hout, hfits]
    · simp [Dec.lit_of_full (eq_false_of_ne_true hfits), hopen, hout, hfits]
  by_cases hsep : b = markSep
  · subst hsep
    simp [Dec.action_markSep hout, Dec.decodes, Dec.took, hopen, hout]
  by_cases hclose : b = markClose
  · subst hclose
    rw [Dec.action_markClose hout]
    by_cases hnum : (isnum d.ob && isnum d.lb) = true
    · have hnum' := Bool.and_eq_true_iff.mp hnum
      by_cases hfits : fitsCap cap (d.out.length + min (val d.lb) (min (val d.ob) d.out.length)) = true
      · simp [Dec.tokClose_of_fits hnum hfits, Dec.decodes, Dec.took, Dec.referenced, hopen, hout, hsep, hnum', hfits]
      · simp [Dec.tokClose_of_full hnum (eq_false_of_ne_true hfits), hopen, hout, hsep, hnum', hfits]
    · have hnum' := mt Bool.and_eq_true_iff.mpr hnum
      simp [Dec.tokClose_of_malformed (eq_false_of_ne_true hnum), hopen, hout, hsep, if_neg hnum']
  rw [Dec.action_char hout ⟨hopen, hsep, hclose⟩]
  cases hst : d.state with
  | outside => exact absurd hst hout
  | offset => simp [Dec.tokChar_offset hst, Dec.decodes, Dec.took, hopen, hsep, hclose]
  | length => simp [Dec.tokChar_length hst, Dec.decodes, Dec.took, hopen, hsep, hclose]

/-- The loop of `Decode` takes bytes by their actions. -/
theorem Dec.decodes_append (cap : Option Nat) (xs ys : List Byte) (d : Dec) :
    d.decodes cap (xs ++ ys) = (d.actions cap xs).decodes cap ys := by
  induction xs generalizing d with
  | nil => rfl
  | cons x xs ih =>
    rw [List.cons_append, Dec.decodes_cons, Dec.actions]
    cases d.action cap x with
    | go d' => exact ih d'
    | stop d' => rfl

/-- The pushes of the bytes a frame of unit D awaits, where `Decode` meets no fault in them (42_decoder R130, R140). -/
theorem runCommands_decPush {bytes o : List Byte} {s : State} (hn : s.dec.i + bytes.length = s.dec.n)
    (hs : s.dec.port.status = if bytes = [] then .done else .busy)
    (h : s.dec.decodes s.cfg.outCap bytes = .output o) :
    ∃ t out, runCommands .D (bytes.map .decPush) s = some (t, out) ∧ s.dec.out ++ out = o ∧
      t.dec.port.status = .done := by
  induction bytes generalizing s with
  | nil => exact ⟨s, [], rfl, by simpa using h, hs⟩
  | cons b rest ih =>
    have hb : s.dec.port.status = .busy := by simpa using hs
    rw [List.length_cons] at hn
    have hlast : s.dec.i + 1 = s.dec.n ↔ rest = [] := by
      rw [← List.length_eq_zero_iff]
      omega
    have hloop : (s.dec.setPort s.dec.port.clearOut).decodes s.cfg.outCap (b :: rest) = .output o := h
    rw [Dec.decodes_cons] at hloop
    obtain ⟨f, -, hact⟩ | ⟨st, ob, lb, made, hact, -⟩ :=
      (s.dec.setPort s.dec.port.clearOut).action_cases s.cfg.outCap b
    · rw [hact] at hloop
      cases hloop
    · rw [hact, DecFlow.decodes_go] at hloop
      have hpush := Dec.push_of_go hb hact
      have hfirst : exec (.decPush b) s = .next (s.setDec (s.dec.push s.cfg.outCap b)) := rfl
      rw [hpush] at hfirst
      have hrest : (s.dec.afterByte st ob lb made).decodes s.cfg.outCap rest = .output o := by
        by_cases hnil : rest = []
        · subst hnil
          exact hloop
        · simpa [Dec.decodes, Dec.afterByte, Dec.took, mt hlast.mp hnil] using hloop
      obtain ⟨t, out, hrun, hout, hdone⟩ := ih (s := s.setDec (s.dec.afterByte st ob lb made))
        (by simp only [State.setDec_dec, Dec.afterByte]; omega)
        (by simp only [State.setDec_dec, Dec.afterByte, hlast, hb]) hrest
      refine ⟨t, made ++ out, runCommands_cons hfirst hrun, ?_, hdone⟩
      rw [← List.append_assoc]
      exact hout

/-- The frame DECODE of bytes in which `Decode` meets no fault (42_decoder R140). -/
theorem runCommands_decodeFrame {bytes o : List Byte} {s : State} (h : decodeFn s.cfg.outCap bytes = .output o) :
    ∃ t, runCommands .D (decodeFrame bytes) s = some (t, o) ∧ t.dec.port.status = .done := by
  have hstart : exec (.decStart bytes.length) s = .next (s.setDec (s.dec.start bytes.length)) := rfl
  obtain ⟨t, out, hrun, hout, hdone⟩ :=
    runCommands_decPush (s := s.setDec (s.dec.start bytes.length)) (Nat.zero_add _) (by simp [Dec.start]) h
  obtain rfl : out = o := hout
  exact ⟨t, runCommands_cons hstart hrun, hdone⟩

/-! ### The round trip (41_encoder R120) -/

/-- Unit D outside a token with the history `out`. -/
def Dec.written (out : List Byte) : Dec := Dec.reset.took .outside [] [] out

@[simp] theorem Dec.written_out (out : List Byte) : (Dec.written out).out = out := rfl

/-- Bytes that open no token stand for themselves (42_decoder R138, R147). -/
theorem Dec.actions_literals {cap : Option Nat} {lits : List Byte} (hopen : markOpen ∉ lits) (out : List Byte)
    (hfits : fitsCap cap (out ++ lits).length = true) :
    (Dec.written out).actions cap lits = .go (Dec.written (out ++ lits)) := by
  induction lits generalizing out with
  | nil => rw [List.append_nil]; rfl
  | cons b lits ih =>
    obtain ⟨hb, hlits⟩ : markOpen ≠ b ∧ markOpen ∉ lits := by simpa using hopen
    rw [List.append_cons] at hfits ⊢
    have hroom : fitsCap cap ((Dec.written out).out.length + 1) = true := fitsCap_mono (by simp) hfits
    have hact : (Dec.written out).action cap b = .go (Dec.written (out ++ [b])) := by
      rw [Dec.action_literal rfl (Ne.symm hb), Dec.lit_of_fits hroom]
      simp [Dec.written, Dec.took, Port.emitSeq]
    rw [Dec.actions, hact, DecFlow.go_andThen, ih hlits _ hfits]

/-- A token stands for the bytes it refers to (42_decoder R135, R136). -/
theorem Dec.actions_token {cap : Option Nat} {o l : Nat} {out run : List Byte}
    (hrun : (Dec.written out).referenced o l = run) (hfits : fitsCap cap (out ++ run).length = true) :
    (Dec.written out).actions cap (tokenText o l) = .go (Dec.written (out ++ run)) := by
  subst hrun
  rw [List.length_append, Dec.length_referenced] at hfits
  have hclose := Dec.tokClose_of_fits (cap := cap) (d := (Dec.written out).parsing .length (dec o) (dec l)) (by simp)
    (by simpa using hfits)
  rw [Dec.actions_tokenText, hclose]
  simp [Dec.written, Dec.took, Dec.parsing, Dec.referenced, Port.emitSeq]

/-- A token the encoder emits refers to its run, as the search buffer ends where the decoder's history ends
(41_encoder R108, R118, R119). -/
theorem referenced_of_locate {run sb out : List Byte} {r : Nat} (hsb : sb <:+ out) (hloc : locate run sb = .found r) :
    (Dec.written out).referenced (sb.length - r) run.length = run := by
  obtain ⟨hroom, hstands⟩ := locateIsSound run sb r hloc
  obtain ⟨older, rfl⟩ := hsb
  have hlen : (older ++ sb).length = older.length + sb.length := List.length_append
  have hback : min (sb.length - r) (older ++ sb).length = sb.length - r := by omega
  have hfrom : (older ++ sb).length - (sb.length - r) = older.length + r := by omega
  have hcount : min run.length (sb.length - r) = run.length := by omega
  rw [Dec.referenced, Dec.written_out, hback, hfrom, hcount, List.drop_length_add_append, hstands]

/-- Whatever a flush emits, the decoder takes it for the run (41_encoder R107, R109, R110). -/
theorem Dec.actions_flushText {cap : Option Nat} {run sb out : List Byte} (hsb : sb <:+ out) (hopen : markOpen ∉ run)
    (hfits : fitsCap cap (out ++ run).length = true) :
    (Dec.written out).actions cap (flushText run sb) = .go (Dec.written (out ++ run)) := by
  have hlits := Dec.actions_literals hopen out hfits
  rw [flushText]
  split
  · split
    · next r hr =>
      split
      · exact Dec.actions_token (referenced_of_locate hsb hr) hfits
      · exact hlits
    · exact hlits
  · exact hlits

/-- The loop of `Decode` reads what the loop of `Encode` still answers as the pending run and the input to come, while the
search buffer is the end of the history. -/
theorem decodes_encodeLoop {cap : Option Nat} (w : Nat) {bytes sb cc out : List Byte} (hsb : sb <:+ out)
    (hopen : markOpen ∉ cc ++ bytes) (hfits : fitsCap cap (out ++ (cc ++ bytes)).length = true) :
    (Dec.written out).decodes cap (encodeLoop w bytes sb cc) = .output (out ++ (cc ++ bytes)) := by
  induction bytes generalizing sb cc out with
  | nil =>
    rw [List.append_nil] at hopen hfits ⊢
    have hlits := Dec.decodes_append cap cc [] (Dec.written out)
    rw [Dec.actions_literals hopen out hfits, List.append_nil] at hlits
    exact hlits
  | cons b rest ih =>
    have hjoin := retiredRun_append_keptRun rest.isEmpty b sb cc
    rw [encodeLoop_cons]
    generalize retiredRun rest.isEmpty b sb cc = run at *
    generalize keptRun rest.isEmpty b sb cc = kept at *
    have hbytes : cc ++ b :: rest = run ++ (kept ++ rest) := by
      rw [List.append_cons, ← hjoin, List.append_assoc]
    rw [hbytes] at hopen hfits ⊢
    rw [← List.append_assoc] at hfits ⊢
    obtain ⟨hrun, hkept⟩ : markOpen ∉ run ∧ markOpen ∉ kept ++ rest := by simpa using hopen
    have hflush := Dec.actions_flushText (cap := cap) hsb hrun (fitsCap_mono (by simp) hfits)
    rw [Dec.decodes_append, hflush]
    exact ih ((trim_suffix w (sb ++ run)).trans (List.suffix_append_self_iff.mpr hsb)) hkept hfits

/-- The property of R120 for the two functions. -/
theorem decodeFn_encodeFn {cap : Option Nat} (w : Nat) {bytes : List Byte} (hopen : markOpen ∉ bytes)
    (hfits : fitsCap cap bytes.length = true) : decodeFn cap (encodeFn w bytes) = .output bytes :=
  decodes_encodeLoop w (sb := []) (cc := []) (out := []) List.suffix_rfl hopen hfits

/-- Settles O58: the frame ENCODE emits what `Encode` answers, of which `Decode` answers the input. -/
theorem roundTrip : Obligations.RoundTrip := by
  intro w bytes s hw hmax hopen hfits
  obtain ⟨t, hencode, -, -⟩ := encodeFrameIsEncode w bytes s hw hmax
  have hfn : decodeFn t.cfg.outCap (encodeFn w bytes) = .output bytes := by
    rw [cfg_of_runCommands hencode]
    exact decodeFn_encodeFn w hopen hfits
  obtain ⟨u, hdecode, hdone⟩ := runCommands_decodeFrame hfn
  exact ⟨t, u, encodeFn w bytes, hencode, hdecode, hdone⟩

end Sys2Proof.Machine

namespace Sys2Proof.Machine

/-! ### The compact form of a digit buffer (42_decoder R149) -/

theorem DigitSummary.ofBytes_append_singleton (sat : Nat) (s : List Byte) (b : Byte) :
    DigitSummary.ofBytes sat (s ++ [b]) = (DigitSummary.ofBytes sat s).char sat b := by
  simp [DigitSummary.ofBytes]

/-- The first field: a byte was taken. -/
theorem DigitSummary.ofBytes_nonempty (sat : Nat) (s : List Byte) :
    (DigitSummary.ofBytes sat s).nonempty = !s.isEmpty := by
  induction s using List.reverseRecOn with
  | nil => rfl
  | append_singleton s b _ =>
    rw [DigitSummary.ofBytes_append_singleton, DigitSummary.char]
    split <;> simp

/-- The second field: a byte that is no digit was taken. -/
theorem DigitSummary.ofBytes_bad (sat : Nat) (s : List Byte) :
    (DigitSummary.ofBytes sat s).bad = !s.all isDigit := by
  induction s using List.reverseRecOn with
  | nil => rfl
  | append_singleton s b ih =>
    rw [DigitSummary.ofBytes_append_singleton, DigitSummary.char]
    split <;> simp [*]

/-- The third field: saturating after each digit is saturating once, at the end (42_decoder R146, R149). -/
theorem DigitSummary.ofBytes_value (sat : Nat) {s : List Byte} (h : ∀ b ∈ s, isDigit b = true) :
    (DigitSummary.ofBytes sat s).value = min (val s) sat := by
  induction s using List.reverseRecOn with
  | nil => exact (Nat.zero_min sat).symm
  | append_singleton s b ih =>
    obtain ⟨hs, hb⟩ := List.forall_mem_append.mp h
    have hdigit : isDigit b = true := hb b (List.mem_singleton_self b)
    rw [DigitSummary.ofBytes_append_singleton, DigitSummary.char, if_pos hdigit, val_append_singleton]
    simp only [ih hs]
    omega

/-- Settles O10: `isnum` is the first two fields, and a number has only digits to saturate after. -/
theorem compactDigitsSuffice : Obligations.CompactDigitsSuffice := by
  intro sat s
  refine ⟨?_, fun hnum => DigitSummary.ofBytes_value sat (isnum_iff.mp hnum).2⟩
  rw [DigitSummary.ofBytes_nonempty, DigitSummary.ofBytes_bad, Bool.not_not, isnum]

/-! ### DEC_PUSH in status BUSY, by the class of its byte -/

/-- A DEC_PUSH whose byte's action takes no fault (42_decoder R132, R139). -/
theorem exec_decPush_of_go {b : Byte} {s : State} {st : ParserState} {ob lb bytes : List Byte}
    (hb : s.dec.port.status = .busy)
    (h : (s.dec.setPort s.dec.port.clearOut).action s.cfg.outCap b =
      .go ((s.dec.setPort s.dec.port.clearOut).took st ob lb bytes)) :
    exec (.decPush b) s = .next { s with dec := s.dec.afterByte st ob lb bytes } :=
  congrArg (fun d => Host.Outcome.next (s.setDec d)) (Dec.push_of_go hb h)

/-- A DEC_PUSH whose byte's action takes a fault (60_exceptions R166, R167). -/
theorem exec_decPush_of_stop {b : Byte} {s : State} {f : FaultCode} (hb : s.dec.port.status = .busy)
    (h : (s.dec.setPort s.dec.port.clearOut).action s.cfg.outCap b =
      .stop ((s.dec.setPort s.dec.port.clearOut).raise f)) :
    exec (.decPush b) s = .next { s with dec := s.dec.faulted f } :=
  congrArg (fun d => Host.Outcome.next (s.setDec d)) (Dec.push_of_stop hb h)

/-- A byte of the offset field (42_decoder R137). -/
theorem Dec.action_char_offset (cap : Option Nat) {b : Byte} {d : Dec} (h : d.state = .offset)
    (hb : b ≠ markOpen ∧ b ≠ markSep ∧ b ≠ markClose) :
    d.action cap b = .go (d.took .offset (d.ob ++ [b]) d.lb []) := by
  rw [Dec.action_char (by simp [h]) hb, Dec.tokChar_offset h]

/-- A byte of the length field (42_decoder R137). -/
theorem Dec.action_char_length (cap : Option Nat) {b : Byte} {d : Dec} (h : d.state = .length)
    (hb : b ≠ markOpen ∧ b ≠ markSep ∧ b ≠ markClose) :
    d.action cap b = .go (d.took .length d.ob (d.lb ++ [b]) []) := by
  rw [Dec.action_char (by simp [h]) hb, Dec.tokChar_length h]

/-- Settles O28: `Dec.start` is the state the statement writes out. -/
theorem decStartOpens : Obligations.DecStartOpens := fun _ _ => rfl

/-- Settles O29: none of these bytes takes a fault, and none of them produces a byte. -/
theorem decPushInsideTokens : Obligations.DecPushInsideTokens := by
  intro b s hb
  refine ⟨?_, ?_, fun hst hopen hsep hclose => ?_, fun hst hopen hsep hclose => ?_⟩
  · rintro rfl
    exact exec_decPush_of_go hb (Dec.action_markOpen _ _)
  · rintro hst rfl
    exact exec_decPush_of_go hb (Dec.action_markSep hst)
  · exact exec_decPush_of_go hb (Dec.action_char_offset _ hst ⟨hopen, hsep, hclose⟩)
  · exact exec_decPush_of_go hb (Dec.action_char_length _ hst ⟨hopen, hsep, hclose⟩)

/-- Settles O30: the byte is a literal, and D.LIT asks for room first. -/
theorem decPushLiteral : Obligations.DecPushLiteral := by
  intro b s hb hst hopen
  have hlit := Dec.action_literal (cap := s.cfg.outCap) (d := s.dec.setPort s.dec.port.clearOut) hst hopen
  refine ⟨fun hfits => ?_, fun hfull => ?_⟩
  · rw [← hst]
    exact exec_decPush_of_go hb (hlit.trans (Dec.lit_of_fits (d := s.dec.setPort s.dec.port.clearOut) hfits b))
  · exact exec_decPush_of_stop hb (hlit.trans (Dec.lit_of_full (d := s.dec.setPort s.dec.port.clearOut) hfull b))

/-- Settles O31: the byte closes the token, and D.TOK_CLOSE parses both fields before it asks for room. -/
theorem decPushClose : Obligations.DecPushClose := by
  intro s hb hst
  have hclose := Dec.action_markClose (cap := s.cfg.outCap) (d := s.dec.setPort s.dec.port.clearOut) hst
  refine ⟨fun hbad => ?_, fun hob hlb hfits => ?_, fun hob hlb hfull => ?_⟩
  · exact exec_decPush_of_stop hb (hclose.trans (Dec.tokClose_of_malformed (Bool.and_eq_false_iff.mpr hbad)))
  · exact exec_decPush_of_go hb (hclose.trans (Dec.tokClose_of_fits (Bool.and_eq_true_iff.mpr ⟨hob, hlb⟩) hfits))
  · exact exec_decPush_of_stop hb (hclose.trans (Dec.tokClose_of_full (Bool.and_eq_true_iff.mpr ⟨hob, hlb⟩) hfull))

/-! ### The rows of the stream and the micro-operations of the decoder -/

/-- The row TOK_CHAR is its action where its byte is of the class (30_encoding R66, 42_decoder R137). -/
theorem exec_tokChar {b : Byte} {s : State} (hin : s.dec.state ≠ .outside)
    (hb : b ≠ markOpen ∧ b ≠ markSep ∧ b ≠ markClose) : exec (.tokChar b) s = .next (s.setDec (s.dec.tokChar b)) :=
  if_pos ⟨hin, hb⟩

/-- Settles O33: each row is its action, and D.TOK_CHAR fills the buffer of the field being read. -/
theorem tokenByteRows : Obligations.TokenByteRows := by
  intro b s
  refine ⟨rfl, fun hin => if_neg hin, fun hopen hsep hclose hst => ?_, fun hopen hsep hclose hst => ?_⟩
  · rw [exec_tokChar (by simp [hst]) ⟨hopen, hsep, hclose⟩]
    simp [Dec.tokChar, append, State.setDec, hst]
  · rw [exec_tokChar (by simp [hst]) ⟨hopen, hsep, hclose⟩]
    simp [Dec.tokChar, append, State.setDec, hst]

/-- Settles O34: the row is D.LIT where its byte is a literal. -/
theorem literalRow : Obligations.LiteralRow := by
  intro b s hst hopen
  have hrow : exec (.lit b) s = .next (s.setDec (s.dec.lit s.cfg.outCap b).state) := if_pos ⟨hst, hopen⟩
  refine ⟨fun hfits => ?_, fun hfull => ?_⟩
  · rw [hrow, Dec.lit_of_fits hfits]
    rfl
  · rw [hrow, Dec.lit_of_full hfull]
    rfl

/-- Settles O35: the row is D.TOK_CLOSE inside a token. -/
theorem closeRow : Obligations.CloseRow := by
  intro s hst
  have hrow : exec .tokClose s = .next (s.setDec (s.dec.tokClose s.cfg.outCap).state) := if_neg hst
  refine ⟨fun hbad => ?_, fun hob hlb hfits => ?_, fun hob hlb hfull => ?_⟩
  · rw [hrow, Dec.tokClose_of_malformed (Bool.and_eq_false_iff.mpr hbad)]
    rfl
  · rw [hrow, Dec.tokClose_of_fits (Bool.and_eq_true_iff.mpr ⟨hob, hlb⟩) hfits]
    rfl
  · rw [hrow, Dec.tokClose_of_full (Bool.and_eq_true_iff.mpr ⟨hob, hlb⟩) hfull]
    rfl

/-- Settles O42: `Dec.endOfInput` is the update the statement writes out. -/
theorem endOfInputRow : Obligations.EndOfInputRow := fun _ => rfl

/-! ### D.COPY (42_decoder R136) -/

theorem exec_dCopy (o l : Nat) (s : State) :
    exec (.dCopy o l) s = .next (s.setDec (s.dec.copyUnit s.cfg.outCap o l).state) := rfl

/-- Settles O37: by whether the copy fits. -/
theorem copyUnitAppendsTheReferenced : Obligations.CopyUnitAppendsTheReferenced := by
  intro o l s
  refine ⟨fun hfits => ?_, fun hfull => ?_⟩
  · rw [exec_dCopy, Dec.copyUnit_of_fits hfits]
    rfl
  · rw [exec_dCopy, Dec.copyUnit_of_full hfull]
    rfl

/-- Settles O38: a clamped offset has the whole history for its window, and a truncated length has the whole window. -/
theorem copyClampsAndTruncates : Obligations.CopyClampsAndTruncates := by
  intro o l d
  refine ⟨fun ho => ?_, fun ho hl => ?_⟩
  · rw [Dec.referenced, Nat.min_eq_right ho.le, Nat.sub_self, List.drop_zero, List.take_eq_take_iff]
    omega
  · have hcount : min l (min o d.out.length) = o := by omega
    refine ⟨?_, (Dec.length_referenced o l d).trans hcount⟩
    rw [Dec.referenced, hcount, Nat.min_eq_left ho, List.take_of_length_le]
    rw [List.length_drop]
    omega

/-- A copy of no bytes leaves unit D as it is (42_decoder R143, R144). -/
theorem Dec.copyUnit_of_copyCount_eq_zero {cap : Option Nat} {o l : Nat} {d : Dec} (h : d.copyCount o l = 0)
    (hfits : fitsCap cap d.out.length = true) : d.copyUnit cap o l = .go d := by
  rw [Dec.copyUnit, h]
  exact if_pos hfits

/-- Settles O39: a zero in either field makes the count of copied bytes zero. -/
theorem zeroFieldsCopyNothing : Obligations.ZeroFieldsCopyNothing := by
  intro o l s hfits
  rw [exec_dCopy, exec_dCopy, Dec.copyUnit_of_copyCount_eq_zero (by simp [Dec.copyCount, Dec.window]) hfits,
    Dec.copyUnit_of_copyCount_eq_zero (by simp [Dec.copyCount]) hfits]
  exact ⟨rfl, rfl⟩

/-- Saturating both fields at a bound the history does not exceed moves neither the window nor the count (42_decoder
R146). -/
theorem Dec.copyUnit_saturate (cap : Option Nat) (o l : Nat) {sat : Nat} {d : Dec} (h : d.out.length ≤ sat) :
    d.copyUnit cap (min o sat) (min l sat) = d.copyUnit cap o l := by
  have hwindow : d.window (min o sat) = d.window o := by
    simp only [Dec.window]
    omega
  have hcount : d.copyCount (min o sat) (min l sat) = d.copyCount o l := by
    simp only [Dec.copyCount, Dec.window]
    omega
  rw [Dec.copyUnit, Dec.copyUnit, hcount, hwindow]

/-- Settles O40: the history is within `OUT_CAP`, so it does not exceed the bound. -/
theorem saturationIsHarmless : Obligations.SaturationIsHarmless := by
  intro o l sat cap s _ hhistory hsat
  rw [exec_dCopy, exec_dCopy, Dec.copyUnit_saturate _ o l (hhistory.trans hsat)]

/-! ### The frame DECODE in full (42_decoder R140) -/

/-- Unit D in a frame of which exactly the bytes `bytes` are still to come. -/
structure Dec.Awaits (bytes : List Byte) (d : Dec) : Prop where
  counter : d.i + bytes.length = d.n
  status  : d.port.status = if bytes = [] then .done else .busy
  fault   : d.port.fault = .fNone

/-- Unit D at the end of a frame of which `Decode` answers `r`. -/
def Dec.Shows (d : Dec) : DecodeResult → Prop
  | .output o => d.out = o ∧ d.port.status = .done ∧ d.port.fault = .fNone
  | .fail f => d.port.status = .fault ∧ d.port.fault = f

/-- DEC_START (42_decoder R131). -/
theorem Dec.start_awaits (bytes : List Byte) (d : Dec) : (d.start bytes.length).Awaits bytes where
  counter := Nat.zero_add _
  status := by simp [Dec.start]
  fault := rfl

/-- A DEC_PUSH takes the first byte awaited: `Decode` fails in it and unit D takes the fault, or the rest is awaited, of
which the loop of `Decode` answers the same. -/
theorem Dec.Awaits.push {b : Byte} {rest : List Byte} {d : Dec} (h : d.Awaits (b :: rest)) (cap : Option Nat) :
    (∃ f, d.push cap b = d.faulted f ∧ d.decodes cap (b :: rest) = .fail f) ∨
    ((d.push cap b).Awaits rest ∧ (d.push cap b).decodes cap rest = d.decodes cap (b :: rest)) := by
  have hb : d.port.status = .busy := by simpa using h.status
  have hcounter : d.i + (rest.length + 1) = d.n := h.counter
  have hlast : d.i + 1 = d.n ↔ rest = [] := by
    rw [← List.length_eq_zero_iff]
    omega
  have hloop : d.decodes cap (b :: rest) = ((d.setPort d.port.clearOut).action cap b).decodes cap rest :=
    Dec.decodes_cons cap b rest (d.setPort d.port.clearOut)
  obtain ⟨f, -, hact⟩ | ⟨st, ob, lb, made, hact, -⟩ := (d.setPort d.port.clearOut).action_cases cap b
  · rw [hact] at hloop
    exact .inl ⟨f, Dec.push_of_stop hb hact, hloop⟩
  · rw [hact, DecFlow.decodes_go] at hloop
    rw [Dec.push_of_go hb hact, hloop]
    refine .inr ⟨⟨?_, ?_, h.fault⟩, ?_⟩
    · simp only [Dec.afterByte]
      omega
    · simp only [Dec.afterByte, hlast, hb]
    · by_cases hnil : rest = []
      · subst hnil
        rfl
      · simp [Dec.decodes, Dec.afterByte, Dec.took, mt hlast.mp hnil]

/-- A unit in FAULT ignores every DEC_PUSH and keeps its code (60_exceptions R168). -/
theorem Dec.Shows.pushes_of_fail {f : FaultCode} {d : Dec} (h : d.Shows (.fail f)) (cap : Option Nat) (bytes : List Byte) :
    (bytes.foldl (fun d b => d.push cap b) d).Shows (.fail f) := by
  induction bytes generalizing d with
  | nil => exact h
  | cons b rest ih =>
    obtain ⟨hs, hf⟩ := h
    have hb : d.port.status ≠ .busy := by simp [hs]
    rw [List.foldl_cons, Dec.push_of_not_busy hb]
    exact ih ⟨Port.misuse_status _, by simp [hs, hf]⟩

/-- The pushes of the bytes awaited show what the loop of `Decode` answers of them. -/
theorem Dec.Awaits.shows {bytes : List Byte} {d : Dec} (h : d.Awaits bytes) (cap : Option Nat) :
    (bytes.foldl (fun d b => d.push cap b) d).Shows (d.decodes cap bytes) := by
  induction bytes generalizing d with
  | nil => exact ⟨rfl, h.status, h.fault⟩
  | cons b rest ih =>
    rw [List.foldl_cons]
    obtain ⟨f, hpush, hfail⟩ | ⟨hrest, hloop⟩ := h.push cap
    · rw [hpush, hfail]
      exact Dec.Shows.pushes_of_fail ⟨rfl, rfl⟩ cap rest
    · rw [← hloop]
      exact ih hrest

/-- A run of pushes completes in every state, and the history grows by what it emits (10_state R28). -/
theorem runCommands_map_decPush (bytes : List Byte) (s : State) :
    ∃ out, runCommands .D (bytes.map .decPush) s =
        some (s.setDec (bytes.foldl (fun d b => d.push s.cfg.outCap b) s.dec), out) ∧
      (bytes.foldl (fun d b => d.push s.cfg.outCap b) s.dec).out = s.dec.out ++ out := by
  induction bytes generalizing s with
  | nil => exact ⟨[], rfl, (List.append_nil _).symm⟩
  | cons b rest ih =>
    have hfirst : exec (.decPush b) s = .next (s.setDec (s.dec.push s.cfg.outCap b)) := rfl
    have hgrows : (s.dec.push s.cfg.outCap b).out = s.dec.out ++ (s.dec.push s.cfg.outCap b).port.dout :=
      historyIsWhatWasEmitted b s _ hfirst
    obtain ⟨out, hrun, hout⟩ := ih (s.setDec (s.dec.push s.cfg.outCap b))
    refine ⟨_, runCommands_cons hfirst hrun, hout.trans ?_⟩
    rw [State.setDec_dec, hgrows, List.append_assoc]
    rfl

/-- Settles O56: after DEC_START the pushes show what `Decode` answers, and what they emitted is the history. -/
theorem decodeFrameIsDecode : Obligations.DecodeFrameIsDecode := by
  intro bytes s
  have hstart : exec (.decStart bytes.length) s = .next (s.setDec (s.dec.start bytes.length)) := rfl
  obtain ⟨out, hrun, hout⟩ := runCommands_map_decPush bytes (s.setDec (s.dec.start bytes.length))
  have hshows : (bytes.foldl (fun d b => d.push s.cfg.outCap b) (s.dec.start bytes.length)).Shows
      (decodeFn s.cfg.outCap bytes) := (Dec.start_awaits bytes s.dec).shows s.cfg.outCap
  refine ⟨_, out, runCommands_cons hstart hrun, fun o ho => ?_, fun f hf => ?_⟩
  · rw [ho] at hshows
    obtain ⟨hhistory, hdone, hnone⟩ := hshows
    exact ⟨hout.symm.trans hhistory, hhistory, hdone, hnone⟩
  · rw [hf] at hshows
    exact hshows

/-- Settles O60: the bytes are literals, which stand for themselves. -/
theorem literalPassthrough : Obligations.LiteralPassthrough := by
  intro cap bytes hopen hfits
  have hloop := Dec.decodes_append cap bytes [] (Dec.written [])
  rw [Dec.actions_literals hopen [] hfits, List.append_nil] at hloop
  exact hloop

end Sys2Proof.Machine

namespace Sys2Proof.Machine

/-! ### Misuse of a unit in full (60_exceptions R164, R168) -/

/-- A misuse in status FAULT is ignored: the response carries no byte and the first code is kept. -/
theorem Port.misuse_of_fault {p : Port} (h : p.status = .fault) : p.misuse = p.clearOut := if_pos h

/-- A misuse in any other status raises F_PROTOCOL. -/
theorem Port.misuse_of_ne_fault {p : Port} (h : p.status ≠ .fault) : p.misuse = Port.raise .fProtocol := if_neg h

/-- The commands that unit E has no use for: a reserved code, or a PUSH with no frame open (60_exceptions R164). -/
def EncMisuse (i : Instr) (s : State) : Prop :=
  ((∃ b, i = .encPush b) ∧ s.enc.port.status ≠ .busy) ∨ i = .reserved000 ∨ i = .reserved011

/-- The commands that unit D has no use for (60_exceptions R164). -/
def DecMisuse (i : Instr) (s : State) : Prop :=
  ((∃ b, i = .decPush b) ∧ s.dec.port.status ≠ .busy) ∨ i = .reserved100 ∨ i = .reserved111

theorem exec_of_encMisuse {i : Instr} {s : State} (h : EncMisuse i s) :
    exec i s = .next (s.setEnc (s.enc.setPort s.enc.port.misuse)) := by
  obtain ⟨⟨b, rfl⟩, hb⟩ | rfl | rfl := h
  · exact congrArg (fun e => Host.Outcome.next (s.setEnc e)) (Enc.push_of_not_busy hb b)
  · rfl
  · rfl

theorem exec_of_decMisuse {i : Instr} {s : State} (h : DecMisuse i s) :
    exec i s = .next (s.setDec (s.dec.setPort s.dec.port.misuse)) := by
  obtain ⟨⟨b, rfl⟩, hb⟩ | rfl | rfl := h
  · exact congrArg (fun d => Host.Outcome.next (s.setDec d)) (Dec.push_of_not_busy hb)
  · rfl
  · rfl

theorem exec_of_encMisuse_of_ne_fault {i : Instr} {s : State} (h : EncMisuse i s) (hs : s.enc.port.status ≠ .fault) :
    exec i s = .next { s with enc := s.enc.faulted .fProtocol } := by
  rw [exec_of_encMisuse h, Port.misuse_of_ne_fault hs]
  rfl

theorem exec_of_encMisuse_of_fault {i : Instr} {s : State} (h : EncMisuse i s) (hs : s.enc.port.status = .fault) :
    exec i s = .next { s with enc := { s.enc with port := { s.enc.port with dout := [] } } } := by
  rw [exec_of_encMisuse h, Port.misuse_of_fault hs]
  rfl

theorem exec_of_decMisuse_of_ne_fault {i : Instr} {s : State} (h : DecMisuse i s) (hs : s.dec.port.status ≠ .fault) :
    exec i s = .next { s with dec := s.dec.faulted .fProtocol } := by
  rw [exec_of_decMisuse h, Port.misuse_of_ne_fault hs]
  rfl

theorem exec_of_decMisuse_of_fault {i : Instr} {s : State} (h : DecMisuse i s) (hs : s.dec.port.status = .fault) :
    exec i s = .next { s with dec := { s.dec with port := { s.dec.port with dout := [] } } } := by
  rw [exec_of_decMisuse h, Port.misuse_of_fault hs]
  rfl

/-- The two statuses in which a PUSH raises F_PROTOCOL (60_exceptions R164 (a)). -/
theorem Status.idle_or_done_iff (st : Status) : st = .idle ∨ st = .done ↔ st ≠ .busy ∧ st ≠ .fault := by
  cases st <;> decide

/-- Settles O43: each of these commands is a misuse of its unit, and the unit's status decides what a misuse does. -/
theorem misuseRaisesProtocol : Obligations.MisuseRaisesProtocol := by
  intro b s
  refine ⟨fun h => ?_, fun h => ⟨?_, ?_⟩, fun h i hi => ?_, fun h => ?_, fun h => ⟨?_, ?_⟩, fun h i hi => ?_⟩
  · obtain ⟨hbusy, hfault⟩ := (Status.idle_or_done_iff _).mp h
    exact exec_of_encMisuse_of_ne_fault (.inl ⟨⟨b, rfl⟩, hbusy⟩) hfault
  · exact exec_of_encMisuse_of_ne_fault (.inr (.inl rfl)) h
  · exact exec_of_encMisuse_of_ne_fault (.inr (.inr rfl)) h
  · exact exec_of_encMisuse_of_fault (hi.imp_left fun hpush => ⟨⟨b, hpush⟩, by simp [h]⟩) h
  · obtain ⟨hbusy, hfault⟩ := (Status.idle_or_done_iff _).mp h
    exact exec_of_decMisuse_of_ne_fault (.inl ⟨⟨b, rfl⟩, hbusy⟩) hfault
  · exact exec_of_decMisuse_of_ne_fault (.inr (.inl rfl)) h
  · exact exec_of_decMisuse_of_ne_fault (.inr (.inr rfl)) h
  · exact exec_of_decMisuse_of_fault (hi.imp_left fun hpush => ⟨⟨b, hpush⟩, by simp [h]⟩) h

/-! ### What a host command does to the port of its unit -/

/-- All a host command can do to the port of its unit. `start` says that the command is the unit's START, `cause f` that
it has a cause for the fault `f` (60_exceptions R160). -/
inductive Port.Moves (start : Prop) (cause : FaultCode → Prop) (p : Port) : Port → Prop where
  /-- An accepted START. -/
  | opens {q : Port} (hstart : start) (hs : q.status ≠ .fault) (hf : q.fault = .fNone) : Moves start cause p q
  /-- A PUSH with a frame open that takes no fault. -/
  | goesOn {q : Port} (hb : p.status = .busy) (hs : q.status ≠ .fault) (hf : q.fault = p.fault) : Moves start cause p q
  /-- A fault is taken, in FAULT by a START only (60_exceptions R166, R168). -/
  | raises {f : FaultCode} (hcause : cause f) (hentry : p.status = .fault → start) : Moves start cause p (Port.raise f)
  /-- The command is ignored (60_exceptions R168). -/
  | ignored (hs : p.status = .fault) : Moves start cause p p.clearOut

namespace Port.Moves

variable {start : Prop} {cause : FaultCode → Prop} {p q : Port}

/-- A misuse (60_exceptions R164, R168). -/
theorem misuse (h : p.status ≠ .fault → cause .fProtocol) : Moves start cause p p.misuse := by
  by_cases hs : p.status = .fault
  · rw [Port.misuse_of_fault hs]
    exact .ignored hs
  · rw [Port.misuse_of_ne_fault hs]
    exact .raises (h hs) (absurd · hs)

/-- FAULT is sticky (60_exceptions R168). -/
theorem sticky (h : Moves start cause p q) (hp : p.status = .fault) :
    (q.status = .fault ∧ q.fault = p.fault) ∨ start := by
  cases h with
  | opens hstart => exact .inr hstart
  | goesOn hb => simp [hp] at hb
  | raises _ hentry => exact .inr (hentry hp)
  | ignored => exact .inl ⟨hp, rfl⟩

/-- A code that was not recorded before has a cause in the command. -/
theorem cause_of_new (h : Moves start cause p q) {f : FaultCode} (hq : q.fault = f) (hp : p.fault ≠ f)
    (hnone : f ≠ .fNone) : cause f := by
  cases h with
  | opens _ _ hf => exact absurd (hq.symm.trans hf) hnone
  | goesOn _ _ hf => exact absurd (hf.symm.trans hq) hp
  | raises hcause => exact hq ▸ hcause
  | ignored => exact absurd hq hp

/-- The response of a command that leaves its unit in FAULT carries no byte (60_exceptions R166, R168). -/
theorem dout_eq_nil (h : Moves start cause p q) (hq : q.status = .fault) : q.dout = [] := by
  cases h with
  | opens _ hs => exact absurd hq hs
  | goesOn _ hs => exact absurd hq hs
  | raises => rfl
  | ignored => rfl

end Port.Moves

/-! ### The causes of a fault, by command (60_exceptions R160 to R164) -/

/-- The host command `i` has in state `s` a cause for a fault of unit E. -/
def EncCause (i : Instr) (s : State) : FaultCode → Prop
  | .fInvalidArg => ∃ w n, i = .encStart w n ∧ (w = 0 ∨ s.cfg.wMax < w)
  | .fProtocol =>
      ((∃ b, i = .encPush b) ∧ (s.enc.port.status = .idle ∨ s.enc.port.status = .done)) ∨
      ((i = .reserved000 ∨ i = .reserved011) ∧ s.enc.port.status ≠ .fault)
  | _ => False

/-- The stream byte `b` has in unit D a cause for a fault (42_decoder R135, R136, R138). -/
def Dec.ByteCause (cap : Option Nat) (b : Byte) (d : Dec) : FaultCode → Prop
  | .fParse => b = markClose ∧ d.state ≠ .outside ∧ (isnum d.ob = false ∨ isnum d.lb = false)
  | .fCapacity =>
      (d.state = .outside ∧ b ≠ markOpen ∧ fitsCap cap (d.out.length + 1) = false) ∨
      (d.state ≠ .outside ∧ b = markClose ∧ isnum d.ob = true ∧ isnum d.lb = true ∧
        fitsCap cap (d.out.length + min (val d.lb) (min (val d.ob) d.out.length)) = false)
  | _ => False

/-- The host command `i` has in state `s` a cause for a fault of unit D. -/
def DecCause (i : Instr) (s : State) : FaultCode → Prop
  | .fProtocol =>
      ((∃ b, i = .decPush b) ∧ (s.dec.port.status = .idle ∨ s.dec.port.status = .done)) ∨
      ((i = .reserved100 ∨ i = .reserved111) ∧ s.dec.port.status ≠ .fault)
  | f => ∃ b, i = .decPush b ∧ s.dec.port.status = .busy ∧ s.dec.ByteCause s.cfg.outCap b f

/-- A stream byte whose action takes a fault has a cause for it. -/
theorem Dec.byteCause_of_action_stop {cap : Option Nat} {b : Byte} {d d' : Dec} (h : d.action cap b = .stop d') :
    ∃ f, d' = d.raise f ∧ d.ByteCause cap b f := by
  by_cases hopen : b = markOpen
  · subst hopen
    cases (d.action_markOpen cap).symm.trans h
  by_cases hout : d.state = .outside
  · rw [Dec.action_literal hout hopen] at h
    by_cases hfits : fitsCap cap (d.out.length + 1) = true
    · cases (Dec.lit_of_fits hfits b).symm.trans h
    · have hfull := eq_false_of_ne_true hfits
      obtain rfl := DecFlow.stop.inj ((Dec.lit_of_full hfull b).symm.trans h)
      exact ⟨_, rfl, .inl ⟨hout, hopen, hfull⟩⟩
  by_cases hsep : b = markSep
  · subst hsep
    cases (Dec.action_markSep hout).symm.trans h
  by_cases hclose : b = markClose
  · rw [hclose, Dec.action_markClose hout] at h
    by_cases hnum : (isnum d.ob && isnum d.lb) = true
    · by_cases hfits : fitsCap cap (d.out.length + min (val d.lb) (min (val d.ob) d.out.length)) = true
      · cases (Dec.tokClose_of_fits hnum hfits).symm.trans h
      · have hfull := eq_false_of_ne_true hfits
        obtain ⟨hob, hlb⟩ := Bool.and_eq_true_iff.mp hnum
        obtain rfl := DecFlow.stop.inj ((Dec.tokClose_of_full hnum hfull).symm.trans h)
        exact ⟨_, rfl, .inr ⟨hout, hclose, hob, hlb, hfull⟩⟩
    · have hbad := eq_false_of_ne_true hnum
      obtain rfl := DecFlow.stop.inj ((Dec.tokClose_of_malformed hbad).symm.trans h)
      exact ⟨_, rfl, hclose, hout, Bool.and_eq_false_iff.mp hbad⟩
  cases (Dec.action_char hout ⟨hopen, hsep, hclose⟩).symm.trans h

/-- A DEC_PUSH with a frame open takes a fault its byte has a cause for, or goes on. -/
theorem Dec.push_busy_moves {d : Dec} (hb : d.port.status = .busy) {start : Prop} {cause : FaultCode → Prop}
    {cap : Option Nat} {b : Byte} (hcause : ∀ f, d.ByteCause cap b f → cause f) :
    Port.Moves start cause d.port (d.push cap b).port := by
  obtain ⟨f, -, hact⟩ | ⟨st, ob, lb, bytes, hact, -⟩ := (d.setPort d.port.clearOut).action_cases cap b
  · obtain ⟨g, hraise, hbyte⟩ := Dec.byteCause_of_action_stop hact
    rw [hraise] at hact
    rw [Dec.push_of_stop hb hact]
    exact .raises (hcause g hbyte) fun hs => by simp [hb] at hs
  · rw [Dec.push_of_go hb hact]
    refine .goesOn hb ?_ rfl
    simp only [Dec.afterByte, hb]
    split <;> decide

/-- An ENC_PUSH with a frame open takes no fault. -/
theorem Enc.push_busy_moves {e : Enc} (hb : e.port.status = .busy) (b : Byte) {start : Prop}
    {cause : FaultCode → Prop} : Port.Moves start cause e.port (e.push b).port := by
  rw [Enc.push_turn hb]
  refine .goesOn hb ?_ rfl
  simp only [Enc.afterByte, hb]
  split <;> decide

/-- A misuse of unit E outside FAULT is a cause for F_PROTOCOL. -/
theorem EncMisuse.cause {i : Instr} {s : State} (h : EncMisuse i s) (hs : s.enc.port.status ≠ .fault) :
    EncCause i s .fProtocol :=
  h.imp (fun ⟨hpush, hb⟩ => ⟨hpush, (Status.idle_or_done_iff _).mpr ⟨hb, hs⟩⟩) fun hres => ⟨hres, hs⟩

/-- A misuse of unit D outside FAULT is a cause for F_PROTOCOL. -/
theorem DecMisuse.cause {i : Instr} {s : State} (h : DecMisuse i s) (hs : s.dec.port.status ≠ .fault) :
    DecCause i s .fProtocol :=
  h.imp (fun ⟨hpush, hb⟩ => ⟨hpush, (Status.idle_or_done_iff _).mpr ⟨hb, hs⟩⟩) fun hres => ⟨hres, hs⟩

/-- A cause in the byte of a DEC_PUSH with a frame open is one in the command. -/
theorem Dec.ByteCause.decCause {b : Byte} {s : State} (hb : s.dec.port.status = .busy) :
    ∀ f, s.dec.ByteCause s.cfg.outCap b f → DecCause (.decPush b) s f
  | .fParse, h => ⟨b, rfl, hb, h⟩
  | .fCapacity, h => ⟨b, rfl, hb, h⟩

/-- A misuse of unit E. -/
theorem EncMisuse.moves {i : Instr} {s t : State} (h : EncMisuse i s) (ht : exec i s = .next t) {start : Prop} :
    Port.Moves start (EncCause i s) s.enc.port t.enc.port := by
  obtain rfl := Host.Outcome.next.inj ((exec_of_encMisuse h).symm.trans ht)
  exact .misuse h.cause

/-- A misuse of unit D. -/
theorem DecMisuse.moves {i : Instr} {s t : State} (h : DecMisuse i s) (ht : exec i s = .next t) {start : Prop} :
    Port.Moves start (DecCause i s) s.dec.port t.dec.port := by
  obtain rfl := Host.Outcome.next.inj ((exec_of_decMisuse h).symm.trans ht)
  exact .misuse h.cause

/-- All a host command of unit E can do to E's port. -/
theorem exec_moves_enc {i : Instr} {s t : State} (hc : i.isCommand = true) (hu : i.unit = .E)
    (ht : exec i s = .next t) :
    Port.Moves (∃ w n, i = .encStart w n) (EncCause i s) s.enc.port t.enc.port := by
  cases i with
  | encStart w n =>
    obtain rfl := Host.Outcome.next.inj ht
    by_cases hw : w = 0 ∨ s.cfg.wMax < w
    · rw [State.setEnc_enc, Enc.start_refused hw]
      exact .raises ⟨w, n, rfl, hw⟩ fun _ => ⟨w, n, rfl⟩
    · rw [State.setEnc_enc, Enc.start_accepted (by omega) (by omega)]
      refine .opens ⟨w, n, rfl⟩ ?_ rfl
      dsimp only
      split <;> decide
  | encPush b =>
    by_cases hb : s.enc.port.status = .busy
    · obtain rfl := Host.Outcome.next.inj ht
      exact Enc.push_busy_moves hb b
    · exact EncMisuse.moves (.inl ⟨⟨b, rfl⟩, hb⟩) ht
  | reserved000 => exact EncMisuse.moves (.inr (.inl rfl)) ht
  | reserved011 => exact EncMisuse.moves (.inr (.inr rfl)) ht
  | decStart | decPush | reserved100 | reserved111 => cases hu
  | _ => cases hc

/-- All a host command of unit D can do to D's port. -/
theorem exec_moves_dec {i : Instr} {s t : State} (hc : i.isCommand = true) (hu : i.unit = .D)
    (ht : exec i s = .next t) :
    Port.Moves (∃ n, i = .decStart n) (DecCause i s) s.dec.port t.dec.port := by
  cases i with
  | decStart n =>
    obtain rfl := Host.Outcome.next.inj ht
    refine .opens ⟨n, rfl⟩ ?_ rfl
    simp only [State.setDec_dec, Dec.start]
    split <;> decide
  | decPush b =>
    by_cases hb : s.dec.port.status = .busy
    · obtain rfl := Host.Outcome.next.inj ht
      exact Dec.push_busy_moves hb (Dec.ByteCause.decCause hb)
    · exact DecMisuse.moves (.inl ⟨⟨b, rfl⟩, hb⟩) ht
  | reserved100 => exact DecMisuse.moves (.inr (.inl rfl)) ht
  | reserved111 => exact DecMisuse.moves (.inr (.inr rfl)) ht
  | encStart | encPush | reserved000 | reserved011 => cases hu
  | _ => cases hc

/-- A command word leaves unit E's FAULT as it is, unless it is an ENC_START (60_exceptions R168). -/
theorem enc_fault_sticky {i : Instr} {s t : State} (hc : i.isCommand = true) (ht : exec i s = .next t)
    (hs : s.enc.port.status = .fault) :
    (t.enc.port.status = .fault ∧ t.enc.port.fault = s.enc.port.fault) ∨ ∃ w n, i = .encStart w n := by
  by_cases hu : i.unit = .E
  · exact (exec_moves_enc hc hu ht).sticky hs
  · obtain ⟨-, -, henc, -⟩ := exec_frame ht
    rw [henc hu]
    exact .inl ⟨hs, rfl⟩

/-- A command word leaves unit D's FAULT as it is, unless it is a DEC_START (60_exceptions R168). -/
theorem dec_fault_sticky {i : Instr} {s t : State} (hc : i.isCommand = true) (ht : exec i s = .next t)
    (hs : s.dec.port.status = .fault) :
    (t.dec.port.status = .fault ∧ t.dec.port.fault = s.dec.port.fault) ∨ ∃ n, i = .decStart n := by
  by_cases hu : i.unit = .D
  · exact (exec_moves_dec hc hu ht).sticky hs
  · obtain ⟨-, -, -, hdec, -⟩ := exec_frame ht
    rw [hdec hu]
    exact .inl ⟨hs, rfl⟩

/-- Settles O53: by what the step takes from the host: nothing, a reset, or a command word. -/
theorem faultIsSticky : Obligations.FaultIsSticky := by
  intro s t ht
  cases hcmds : s.cmds with
  | nil =>
    have hidle : step s = .next s := by rw [step, hcmds]
    obtain rfl := Host.Outcome.next.inj (hidle.symm.trans ht)
    exact ⟨fun hs => .inl ⟨hs, rfl⟩, fun hs => .inl ⟨hs, rfl⟩⟩
  | cons x rest =>
    rw [step_of_cmds_cons hcmds] at ht
    cases x with
    | powerOn => exact ⟨fun _ => .inr ⟨_, _, rfl, .inl rfl⟩, fun _ => .inr ⟨_, _, rfl, .inl rfl⟩⟩
    | word w =>
      obtain ⟨hc, -⟩ := decodeCmd_command_wellFormed s.cfg.idxW (BitVec.ofNat (2 * s.cfg.idxW + 3) w)
      refine ⟨fun hs => (enc_fault_sticky hc ht hs).imp_right ?_, fun hs => (dec_fault_sticky hc ht hs).imp_right ?_⟩
      · rintro ⟨a, n, hstart⟩
        exact ⟨_, _, rfl, .inr ⟨w, a, n, rfl, hstart⟩⟩
      · rintro ⟨n, hstart⟩
        exact ⟨_, _, rfl, .inr ⟨w, n, rfl, hstart⟩⟩

/-- A code newly recorded in unit E has a cause in the command. -/
theorem encCause_of_new {i : Instr} {s t : State} (hc : i.isCommand = true) (ht : exec i s = .next t) {f : FaultCode}
    (hnew : t.enc.port.fault = f) (hold : s.enc.port.fault ≠ f) (hnone : f ≠ .fNone) : EncCause i s f := by
  by_cases hu : i.unit = .E
  · exact (exec_moves_enc hc hu ht).cause_of_new hnew hold hnone
  · obtain ⟨-, -, henc, -⟩ := exec_frame ht
    exact absurd (henc hu ▸ hnew) hold

/-- A code newly recorded in unit D has a cause in the command. -/
theorem decCause_of_new {i : Instr} {s t : State} (hc : i.isCommand = true) (ht : exec i s = .next t) {f : FaultCode}
    (hnew : t.dec.port.fault = f) (hold : s.dec.port.fault ≠ f) (hnone : f ≠ .fNone) : DecCause i s f := by
  by_cases hu : i.unit = .D
  · exact (exec_moves_dec hc hu ht).cause_of_new hnew hold hnone
  · obtain ⟨-, -, -, hdec, -⟩ := exec_frame ht
    exact absurd (hdec hu ▸ hnew) hold

/-- Settles O54: a code newly recorded has one of the causes listed in `EncCause` and `DecCause`. -/
theorem faultOrigins : Obligations.FaultOrigins := by
  intro i s t hc ht
  refine ⟨fun hnew hold => encCause_of_new hc ht hnew hold nofun, fun hnew hold => ?_,
    fun hnew hold => decCause_of_new hc ht hnew hold nofun, fun hnew hold => encCause_of_new hc ht hnew hold nofun,
    fun hnew hold => decCause_of_new hc ht hnew hold nofun, fun hu => (exec_moves_enc hc hu ht).dout_eq_nil,
    fun hu => (exec_moves_dec hc hu ht).dout_eq_nil⟩
  obtain ⟨b, hpush, -, rfl, hcause⟩ := decCause_of_new hc ht hnew hold nofun
  exact ⟨hpush, hcause⟩

end Sys2Proof.Machine

namespace Sys2Proof.Machine

/-! ### Every step answers (70_reset_and_hazards R202, 60_exceptions R166) -/

/-- With nothing issued the units wait and keep all their state (60_exceptions R170, R173). -/
theorem step_of_cmds_nil {s : State} (h : s.cmds = []) : step s = .next s := by
  rw [step, h]

/-- The one row that does not answer, M.LOCATE on the empty needle, is no host command. -/
theorem exec_answers_of_isCommand {i : Instr} (hc : i.isCommand = true) (s : State) : ∃ t, exec i s = .next t := by
  obtain hnext | ⟨hay, rfl, -⟩ := exec_next_or_empty i s
  · exact hnext
  · cases hc

/-- Whatever the host does is answered: every word stands for a host command, and a reset answers at once. -/
theorem takeInput_answers (x : HostInput) (s : State) : ∃ t, takeInput x s = .next t := by
  cases x with
  | word w =>
    obtain ⟨hc, -⟩ := decodeCmd_command_wellFormed s.cfg.idxW (BitVec.ofNat (2 * s.cfg.idxW + 3) w)
    rw [takeInput_word]
    exact exec_answers_of_isCommand hc s
  | powerOn => exact ⟨s.powerOn, rfl⟩

/-- Settles O47: with nothing issued the state is kept, and any input of the host is answered. -/
theorem stepAlwaysAnswers : Obligations.StepAlwaysAnswers := by
  intro s
  cases hcmds : s.cmds with
  | nil => exact ⟨s, step_of_cmds_nil hcmds⟩
  | cons x rest =>
    rw [step_of_cmds_cons hcmds]
    exact takeInput_answers x (s.setCmds rest)

/-! ### Power-on reset (70_reset_and_hazards R190, 10_state R33) -/

@[simp] theorem State.powerOn_cfg (s : State) : s.powerOn.cfg = s.cfg := rfl
@[simp] theorem State.powerOn_enc (s : State) : s.powerOn.enc = Enc.reset := rfl
@[simp] theorem State.powerOn_dec (s : State) : s.powerOn.dec = Dec.reset := rfl
@[simp] theorem State.powerOn_cmds (s : State) : s.powerOn.cmds = s.cmds := rfl

/-- A reset the host issued is applied to the state as it stands, whatever frames are open (R190). -/
theorem step_of_cmds_powerOn {s : State} {rest : List HostInput} (h : s.cmds = .powerOn :: rest) :
    step s = .next (s.setCmds rest).powerOn := step_of_cmds_cons h

/-- Settles O45: `State.reset` and a reset both leave the two units at `Enc.reset` and `Dec.reset`. -/
theorem resetValues : Obligations.ResetValues := by
  refine ⟨fun s hs => ?_, fun r rest h => ?_, fun s h => step_of_cmds_nil h⟩
  · have hunits : s.enc = Enc.reset ∧ s.dec = Dec.reset := by
      obtain rfl | ⟨r, rest, hcmds, hstep⟩ := hs
      · exact ⟨rfl, rfl⟩
      · obtain rfl := Host.Outcome.next.inj ((step_of_cmds_powerOn hcmds).symm.trans hstep)
        exact ⟨State.powerOn_enc _, State.powerOn_dec _⟩
    obtain ⟨henc, hdec⟩ := hunits
    rw [henc, hdec]
    decide
  · exact ⟨(r.setCmds rest).powerOn, step_of_cmds_powerOn h, by simp, by simp⟩

end Sys2Proof.Machine
